-- ==== Sys2Proof/Word.lean ====
section
/-! DEFINITION. The word types of the block (00_scope R4, R5): all quantities are unsigned and arithmetic on an
N-bit quantity wraps modulo 2^N, which is what `BitVec N` computes. -/

namespace Sys2Proof

/-- A byte of memory, of the queue or of a port. -/
abbrev Byte := BitVec 8

/-- A 16-bit CPU quantity: `pc`, `sp`, an address of CPU memory (R29, R40). -/
abbrev Addr := BitVec 16

/-- A cycle count or an event time (R10). -/
abbrev Cycles := BitVec 64

/-- A command word `CW[79:0]` or a response word `RW[79:0]` (R60, R63). -/
abbrev CommandWord := BitVec 80

end Sys2Proof
end

