-- ==== Sys2Proof/Syntax.lean ====
section
/-! DEFINITION. The commands of the block: one constructor of `Instr` per row of spec/opcode_table.json, the closed
sets their operands range over, the pseudo-instructions of R77, and the assembler spelling of R76 and R78. -/

namespace Sys2Proof

/-- R10: the closed set of event identities, in the order of their numbers 0, 1, 2. Index 3 does not exist. -/
inductive EventId where
  | timer | interrupt | endFrame
deriving DecidableEq, Repr, Inhabited

/-- R28: the completion actions, numbered 0 to 6 in this order. Value 7 cannot be stored. -/
inductive Action where
  | receiveReqAck | sendVariableData | receiveDataAck | endTransmission | endOutOfMemory | finalizeFile | doNothing
deriving DecidableEq, Repr, Inhabited

/-- R47: the port selects, numbered 0 to 7 in this order. Only `link`, `status` and `intctl` are in the block. -/
inductive Port where
  | link | keyboard | romBank | status | intctl | displayControl | displayData | unassigned
deriving DecidableEq, Repr, Inhabited

/-- The twelve commands (R64 to R75), decoded. -/
inductive Instr where
  /-- R64, R93 -/
  | nop
  /-- R65, R91 -/
  | sched (id : EventId) (time : Cycles)
  /-- R66, R92 -/
  | disp (cc : Cycles)
  /-- R67, R180, R182, R185, R187; `cc` may hold any value and no in-block read uses it (R62) -/
  | rdp (port : Port) (cc : Cycles)
  /-- R68, R181, R183, R184, R187 -/
  | wrp (port : Port) (val : Byte) (cc : Cycles) (inBankedRom : Bool)
  /-- R69, R81 -/
  | enq (b : Byte)
  /-- R70, R82 -/
  | deq
  /-- R71, R83 -/
  | clr
  /-- R72, R120 -/
  | upd
  /-- R73, R135 -/
  | armrx (act : Action)
  /-- R74, R136 -/
  | armtx (act : Action) (n : BitVec 32)
  /-- R75, R137 -/
  | setact (act : Action)
deriving DecidableEq, Repr, Inhabited

/-- R60: the four fields of a command word, as written. -/
structure RawCommand where
  op : BitVec 4
  sel : BitVec 4
  data : Byte
  time : Cycles
deriving DecidableEq, Repr, Inhabited

/-- R77: the pseudo-instructions. -/
inductive Pseudo where
  | irq (time : Cycles)
  | disarm (id : EventId)
  | frame (time : Cycles)
  | linkw (val : Byte)
  | linkr
deriving DecidableEq, Repr, Inhabited

/-- R77: the expansion of each pseudo-instruction. In DISARM the time is the sentinel of R11. -/
def Pseudo.expand : Pseudo → Instr
  | .irq t => .sched .interrupt t
  | .disarm e => .sched e 0xFFFFFFFFFFFFFFFF#64
  | .frame t => .sched .endFrame t
  | .linkw v => .wrp .link v 0 false
  | .linkr => .rdp .link 0

/-- R78: the symbolic name of an event. -/
def EventId.name : EventId → String
  | .timer => "TIMER"
  | .interrupt => "INT"
  | .endFrame => "FRAME"

/-- R78: the symbolic name of an action. -/
def Action.name : Action → String
  | .receiveReqAck => "ReceiveReqAck"
  | .sendVariableData => "SendVariableData"
  | .receiveDataAck => "ReceiveDataAck"
  | .endTransmission => "EndTransmission"
  | .endOutOfMemory => "EndOutOfMemory"
  | .finalizeFile => "FinalizeFile"
  | .doNothing => "DoNothing"

/-- R78: the symbolic name of a port; select 7 has no name and is written as its number (R76). -/
def Port.name : Port → String
  | .link => "LINK"
  | .keyboard => "KBD"
  | .romBank => "BANK"
  | .status => "STATUS"
  | .intctl => "INTCTL"
  | .displayControl => "DISPC"
  | .displayData => "DISPD"
  | .unassigned => "7"

/-- R76: the assembler line of a command, its numbers in decimal (log 18). -/
def Instr.asm : Instr → String
  | .nop => "NOP"
  | .sched e t => "SCHED " ++ e.name ++ ", " ++ toString t.toNat
  | .disp cc => "DISP " ++ toString cc.toNat
  | .rdp p cc => "RDP " ++ p.name ++ ", " ++ toString cc.toNat
  | .wrp p v cc rom =>
    "WRP " ++ p.name ++ ", " ++ toString v.toNat ++ ", " ++ toString cc.toNat ++ (if rom then ", ROM" else "")
  | .enq b => "ENQ " ++ toString b.toNat
  | .deq => "DEQ"
  | .clr => "CLR"
  | .upd => "UPD"
  | .armrx a => "ARMRX " ++ a.name
  | .armtx a n => "ARMTX " ++ a.name ++ ", " ++ toString n.toNat
  | .setact a => "SETACT " ++ a.name

end Sys2Proof
end

