-- ==== Sys2Proof/WellFormed.lean ====
section
/-! DEFINITION. Which raw command words are legal: R79 read as a list of checks over the four fields, written apart
from the decoder so that the two can be compared. A term of `Instr` needs no check of its own: its operands are closed
sets, so event id 3 and action id 7 cannot be written. -/

namespace Sys2Proof.RawCommand

/-- R79, first clause: `op` 0xC to 0xF are reserved. -/
def opDefined (c : RawCommand) : Bool := c.op.toNat < 12

/-- R79, second clause, on `sel`: the bits the command with this `op` does not use are zero (R61). -/
def unusedSelZero (c : RawCommand) : Bool :=
  match c.op.toNat with
  | 1 => c.sel.extractLsb' 2 2 == 0
  | 3 => c.sel.extractLsb' 3 1 == 0
  | 4 => true
  | 9 => c.sel.extractLsb' 3 1 == 0
  | 10 => c.sel.extractLsb' 3 1 == 0
  | 11 => c.sel.extractLsb' 3 1 == 0
  | _ => c.sel == 0

/-- R79, second clause, on `data`: only WRP and ENQ use it (R64 to R75). -/
def unusedDataZero (c : RawCommand) : Bool :=
  match c.op.toNat with
  | 4 => true
  | 5 => true
  | _ => c.data == 0

/-- R79, second clause, on `time`: SCHED, DISP, RDP and WRP use all of it and ARMTX its low half (R62). -/
def unusedTimeZero (c : RawCommand) : Bool :=
  match c.op.toNat with
  | 1 => true
  | 2 => true
  | 3 => true
  | 4 => true
  | 10 => c.time.extractLsb' 32 32 == 0
  | _ => c.time == 0

/-- R79, third clause: SCHED names no event id 3. -/
def eventExists (c : RawCommand) : Bool := !(c.op == 0x1#4 && c.sel.extractLsb' 0 2 == 3#2)

/-- R79, fourth clause: ARMRX, ARMTX and SETACT name no action id 7. -/
def actionExists (c : RawCommand) : Bool :=
  !((c.op == 0x9#4 || c.op == 0xA#4 || c.op == 0xB#4) && c.sel.extractLsb' 0 3 == 7#3)

/-- R79: a command word is illegal when any of the four clauses holds. -/
def legal (c : RawCommand) : Bool :=
  c.opDefined && c.unusedSelZero && c.unusedDataZero && c.unusedTimeZero && c.eventExists && c.actionExists

end Sys2Proof.RawCommand
end

