-- ==== Sys2Proof/Decode.lean ====
section
/-! DEFINITION. The decoder, total on every 80-bit word and rejecting by name (30_encoding R60 to R75, R79), then the
encoder written from the same rules, the opcode table as rows of mask and match, and the host's entry. -/

namespace Sys2Proof

/-- R60: the four fields of a command word. -/
def fieldsOf (w : CommandWord) : RawCommand where
  op := w.extractLsb' 76 4
  sel := w.extractLsb' 72 4
  data := w.extractLsb' 64 8
  time := w.extractLsb' 0 64

/-- R60: the command word of four fields, the first in the high bits. -/
def RawCommand.word (c : RawCommand) : CommandWord := c.op ++ c.sel ++ c.data ++ c.time

/-- Why a word is no command (R79). Every one of them is the one fault `IllegalCommand`. -/
inductive Illegal where
  | reservedOp
  | unusedFieldNotZero
  | eventIdThree
  | actionIdSeven
deriving DecidableEq, Repr

/-- R10, R61: the event a two-bit id names. -/
def EventId.ofBits (b : BitVec 2) : Option EventId :=
  match b with
  | 0#2 => some .timer
  | 1#2 => some .interrupt
  | 2#2 => some .endFrame
  | _ => none

/-- R10: the number of an event. -/
def EventId.bits : EventId → BitVec 2
  | .timer => 0#2
  | .interrupt => 1#2
  | .endFrame => 2#2

/-- R28, R61: the action a three-bit id names. -/
def Action.ofBits (b : BitVec 3) : Option Action :=
  match b with
  | 0#3 => some .receiveReqAck
  | 1#3 => some .sendVariableData
  | 2#3 => some .receiveDataAck
  | 3#3 => some .endTransmission
  | 4#3 => some .endOutOfMemory
  | 5#3 => some .finalizeFile
  | 6#3 => some .doNothing
  | _ => none

/-- R28: the number of an action. -/
def Action.bits : Action → BitVec 3
  | .receiveReqAck => 0#3
  | .sendVariableData => 1#3
  | .receiveDataAck => 2#3
  | .endTransmission => 3#3
  | .endOutOfMemory => 4#3
  | .finalizeFile => 5#3
  | .doNothing => 6#3

/-- R47, R61: the port a three-bit select names. -/
def Port.ofBits (b : BitVec 3) : Port :=
  match b with
  | 0#3 => .link
  | 1#3 => .keyboard
  | 2#3 => .romBank
  | 3#3 => .status
  | 4#3 => .intctl
  | 5#3 => .displayControl
  | 6#3 => .displayData
  | _ => .unassigned

/-- R47: the select of a port. -/
def Port.bits : Port → BitVec 3
  | .link => 0#3
  | .keyboard => 1#3
  | .romBank => 2#3
  | .status => 3#3
  | .intctl => 4#3
  | .displayControl => 5#3
  | .displayData => 6#3
  | .unassigned => 7#3

/-- The action operand of ARMRX, ARMTX and SETACT: `sel[2:0]`, with `sel[3]` zero (R61). -/
def actionOperand (sel : BitVec 4) : Except Illegal Action :=
  if sel.extractLsb' 3 1 ≠ 0 then .error .unusedFieldNotZero
  else
    match Action.ofBits (sel.extractLsb' 0 3) with
    | some a => .ok a
    | none => .error .actionIdSeven

/-- A word without operands: every field but `op` is zero (R62). -/
def plain (c : RawCommand) (i : Instr) : Except Illegal Instr :=
  if c.sel = 0 ∧ c.data = 0 ∧ c.time = 0 then .ok i else .error .unusedFieldNotZero

/-- The event operand of SCHED: `sel[1:0]`, with `sel[3:2]` zero (R61). -/
def eventOperand (sel : BitVec 4) : Except Illegal EventId :=
  if sel.extractLsb' 2 2 ≠ 0 then .error .unusedFieldNotZero
  else
    match EventId.ofBits (sel.extractLsb' 0 2) with
    | some e => .ok e
    | none => .error .eventIdThree

/-- R65. -/
def decodeSched (c : RawCommand) : Except Illegal Instr :=
  if c.data ≠ 0 then .error .unusedFieldNotZero
  else (eventOperand c.sel).map (.sched · c.time)

/-- R66. -/
def decodeDisp (c : RawCommand) : Except Illegal Instr :=
  if c.sel = 0 ∧ c.data = 0 then .ok (.disp c.time) else .error .unusedFieldNotZero

/-- R67; `time` may hold any value (R62). -/
def decodeRdp (c : RawCommand) : Except Illegal Instr :=
  if c.sel.extractLsb' 3 1 = 0 ∧ c.data = 0 then .ok (.rdp (Port.ofBits (c.sel.extractLsb' 0 3)) c.time)
  else .error .unusedFieldNotZero

/-- R68; `sel[3]` is `inBankedRom`. -/
def decodeWrp (c : RawCommand) : Except Illegal Instr :=
  .ok (.wrp (Port.ofBits (c.sel.extractLsb' 0 3)) c.data c.time (c.sel.extractLsb' 3 1 == 1#1))

/-- R69. -/
def decodeEnq (c : RawCommand) : Except Illegal Instr :=
  if c.sel = 0 ∧ c.time = 0 then .ok (.enq c.data) else .error .unusedFieldNotZero

/-- R73. -/
def decodeArmrx (c : RawCommand) : Except Illegal Instr :=
  if c.data ≠ 0 ∨ c.time ≠ 0 then .error .unusedFieldNotZero
  else (actionOperand c.sel).map .armrx

/-- R74: `n = time[31:0]` and `time[63:32]` is zero (R62). -/
def decodeArmtx (c : RawCommand) : Except Illegal Instr :=
  if c.data ≠ 0 ∨ c.time.extractLsb' 32 32 ≠ 0 then .error .unusedFieldNotZero
  else (actionOperand c.sel).map (.armtx · (c.time.extractLsb' 0 32))

/-- R75. -/
def decodeSetact (c : RawCommand) : Except Illegal Instr :=
  if c.data ≠ 0 ∨ c.time ≠ 0 then .error .unusedFieldNotZero
  else (actionOperand c.sel).map .setact

/-- The opcode map (R64 to R75) over the four fields; `op` 0xC to 0xF are reserved (R79). -/
def decodeFields (c : RawCommand) : Except Illegal Instr :=
  match c.op with
  | 0x0#4 => plain c .nop
  | 0x1#4 => decodeSched c
  | 0x2#4 => decodeDisp c
  | 0x3#4 => decodeRdp c
  | 0x4#4 => decodeWrp c
  | 0x5#4 => decodeEnq c
  | 0x6#4 => plain c .deq
  | 0x7#4 => plain c .clr
  | 0x8#4 => plain c .upd
  | 0x9#4 => decodeArmrx c
  | 0xA#4 => decodeArmtx c
  | 0xB#4 => decodeSetact c
  | _ => .error .reservedOp

/-- The command a word stands for, or why it is none. -/
def decode (w : CommandWord) : Except Illegal Instr := decodeFields (fieldsOf w)

/-- The four fields of each command, from its encoding rule (R64 to R75). -/
def Instr.fields : Instr → RawCommand
  | .nop => ⟨0x0#4, 0, 0, 0⟩
  | .sched e t => ⟨0x1#4, 0#2 ++ e.bits, 0, t⟩
  | .disp cc => ⟨0x2#4, 0, 0, cc⟩
  | .rdp p cc => ⟨0x3#4, 0#1 ++ p.bits, 0, cc⟩
  | .wrp p v cc rom => ⟨0x4#4, BitVec.ofBool rom ++ p.bits, v, cc⟩
  | .enq b => ⟨0x5#4, 0, b, 0⟩
  | .deq => ⟨0x6#4, 0, 0, 0⟩
  | .clr => ⟨0x7#4, 0, 0, 0⟩
  | .upd => ⟨0x8#4, 0, 0, 0⟩
  | .armrx a => ⟨0x9#4, 0#1 ++ a.bits, 0, 0⟩
  | .armtx a n => ⟨0xA#4, 0#1 ++ a.bits, 0, 0#32 ++ n⟩
  | .setact a => ⟨0xB#4, 0#1 ++ a.bits, 0, 0⟩

/-- The command word of a command. -/
def encode (i : Instr) : CommandWord := i.fields.word

/-- One row of the opcode table: a word is the command when `w AND mask == match` and, where the row has one, the side
condition on the named field holds. -/
structure OpcodeRow where
  mnemonic : String
  pattern : CommandWord
  mask : CommandWord
deriving DecidableEq, Repr

/-- The opcode table of 30_encoding section 2, with match (here `pattern`) and mask over the 80-bit word. -/
def opcodeTable : List OpcodeRow :=
  [⟨"NOP", 0x00000000000000000000#80, 0xFFFFFFFFFFFFFFFFFFFF#80⟩,
   ⟨"SCHED", 0x10000000000000000000#80, 0xFCFF0000000000000000#80⟩,
   ⟨"DISP", 0x20000000000000000000#80, 0xFFFF0000000000000000#80⟩,
   ⟨"RDP", 0x30000000000000000000#80, 0xF8FF0000000000000000#80⟩,
   ⟨"WRP", 0x40000000000000000000#80, 0xF0000000000000000000#80⟩,
   ⟨"ENQ", 0x50000000000000000000#80, 0xFF00FFFFFFFFFFFFFFFF#80⟩] ++
  [⟨"DEQ", 0x60000000000000000000#80, 0xFFFFFFFFFFFFFFFFFFFF#80⟩,
   ⟨"CLR", 0x70000000000000000000#80, 0xFFFFFFFFFFFFFFFFFFFF#80⟩,
   ⟨"UPD", 0x80000000000000000000#80, 0xFFFFFFFFFFFFFFFFFFFF#80⟩,
   ⟨"ARMRX", 0x90000000000000000000#80, 0xF8FFFFFFFFFFFFFFFFFF#80⟩,
   ⟨"ARMTX", 0xA0000000000000000000#80, 0xF8FFFFFFFFFF00000000#80⟩,
   ⟨"SETACT", 0xB0000000000000000000#80, 0xF8FFFFFFFFFFFFFFFFFF#80⟩]

/-- R64 to R75: the mnemonic of a command. -/
def Instr.mnemonic : Instr → String
  | .nop => "NOP"
  | .sched _ _ => "SCHED"
  | .disp _ => "DISP"
  | .rdp _ _ => "RDP"
  | .wrp _ _ _ _ => "WRP"
  | .enq _ => "ENQ"
  | .deq => "DEQ"
  | .clr => "CLR"
  | .upd => "UPD"
  | .armrx _ => "ARMRX"
  | .armtx _ _ => "ARMTX"
  | .setact _ => "SETACT"

/-- The host's entry: the command whose word is `w`. Every command is one 80-bit word (R60), so the table's bit
numbers are the command word's own; bits at `nbits` and above are 0, and a number wider than 80 bits is no command. -/
def decodeTableWord (nbits w : Nat) : Option Instr :=
  if w % 2 ^ nbits < 2 ^ 80 then (decode (BitVec.ofNat 80 (w % 2 ^ nbits))).toOption else none

end Sys2Proof
end

