-- ==== Sys2Proof/Config.lean ====
section
/-! DEFINITION. What is fixed for the machine: the sentinel, and the values the spec leaves free (00_scope R4,
70 R233). The free values are constants without a body: no proof can see what they are. -/

namespace Sys2Proof

/-- R11: the sentinel "never" is the maximum 64-bit value. -/
def never : Cycles := 0xFFFFFFFFFFFFFFFF#64

/-- R4: the table of timer periods is OPEN, each entry an unsigned 64-bit number greater than 0. This is entry `k`
MINUS ONE, so that the entry itself ranges over exactly the positive 64-bit numbers. FREE VALUE (log 11). -/
opaque Config.periodMinusOne : Fin 16 → Fin 18446744073709551615

/-- R41, R233: the byte the external memory holds at an address that nothing has supplied or written yet; all of
CPU memory is free at reset. FREE VALUE (log 9). -/
opaque Config.externalByte : Addr → Byte

/-- R16: a timer period, which is never 0. -/
structure Period where
  value : Cycles
  pos : value ≠ 0
deriving DecidableEq, Repr

/-- Entry `k` of `TIMER_PERIOD_TABLE` (R4). -/
def Config.period (k : Fin 16) : Period where
  value := BitVec.ofNat 64 ((Config.periodMinusOne k).val + 1)
  pos := by
    intro h
    have h2 := congrArg BitVec.toNat h
    have h3 := (Config.periodMinusOne k).isLt
    have h4 : (0 : Cycles).toNat = 0 := rfl
    rw [BitVec.toNat_ofNat, h4] at h2
    omega

end Sys2Proof
end

