-- ==== Sys2Proof/Machine/State.lean ====
section
/-! DEFINITION. The state of the block (10_state): plain data, one nested record per unit. The CPU interface registers,
CPU memory, the sampled inputs, the parameters of the step and the queue of commands still to come stand beside the
block's own units, since the step is a function of the state alone. -/

namespace Sys2Proof.Machine

/-- No behaviour of the block stops the machine: R9 says it never halts, R200 gives every fault a response after which
the next command is taken, R41 says no memory access faults. So there is no reason a step could stop for (safe: there
is nothing to be wrong about; log 4). The block's own faults are `FaultCode`. -/
inductive Fault where
deriving DecidableEq, Repr

/-- Why a command has no meaning in this model. -/
inductive Refusal where
  /-- Raised by no arm of `exec`: every command is modelled. It would be safe: the machine stops. -/
  | notModelled (mnemonic : String)
deriving DecidableEq, Repr

/-- R200: the faults of the block, with codes 1 to 9 in this order. -/
inductive FaultCode where
  /-- raised by the decoding of any word (R79) -/
  | illegalCommand
  /-- raised by DISP when `nextTime` is never (R92) -/
  | noEventArmed
  /-- raised by DISP when `cc < nextTime` (R92) -/
  | dispatchNotDue
  /-- raised by DISP when an Interrupt case would run with `im` = 3 (R100, R102) -/
  | badInterruptMode
  /-- raised by DEQ, and by an `Update()` in PrepReceive, on an empty queue (R84, R122) -/
  | queueUnderflow
  /-- raised by ENQ, and by an `Update()` at Send step 1, on a full bounded queue (R84, R133) -/
  | queueOverflow
  /-- raised by ARMRX and ARMTX (R135, R136) -/
  | badArm
  /-- raised by RDP and WRP on a port of another unit (R187) -/
  | portNotInBlock
  /-- raised by RDP on the Interrupt-control port (R185) -/
  | portNotReadable
deriving DecidableEq, Repr

/-- R63: what a command answers. With a fault every other field is 0, so a fault carries its code alone; `completed` is
the completion strobe with the action that was current. -/
inductive Response where
  | ok (completed : Option Action) (data : Byte) (time : Cycles)
  | fault (code : FaultCode)
deriving DecidableEq, Repr

/-- R10 to R12: the three event slots and the cached next event. -/
structure Scheduler where
  timer : Cycles
  interrupt : Cycles
  endFrame : Cycles
  nextId : EventId
  nextTime : Cycles
deriving DecidableEq, Repr

/-- R13, R14, R16, R17: the timer's registers. -/
structure TimerUnit where
  timerPending : Bool
  timerIntEnable : Bool
  timerPeriod : Period
  timerLastUpdate : Cycles
deriving DecidableEq, Repr

/-- R18: the values of the 3-bit `linkStatus` in order; 5, 6 and 7 are not states and nothing in the block writes them,
but a restored context may hold them (R138, log 14). -/
inductive LinkStatus where
  | inactive | prepReceive | prepSend | receive | send | unused5 | unused6 | unused7
deriving DecidableEq, Repr

/-- R18 to R24, R28: the link transport. `lineState` is not stored (R25). -/
structure Link where
  linkStatus : LinkStatus
  stepsLeft : BitVec 3
  bitsLeft : BitVec 4
  bytesLeft : BitVec 32
  acc : Byte
  localOutput : BitVec 2
  xmitOutput : BitVec 2
  action : Action
deriving DecidableEq, Repr

/-- R29 to R31: the CPU's registers that the dispatcher reads and writes. -/
structure CpuRegs where
  pc : Addr
  sp : Addr
  iff : Bool
  halted : Bool
  im : BitVec 2
  i : Byte
  r : Byte
deriving DecidableEq, Repr

/-- CPU memory (R40): the bytes that are known, as cells in rising order of address. An address without a cell holds no
known byte; what a read of it answers is `State.memByte`'s business alone. -/
abbrev Memory := List Host.Cell

/-- One access of the block to CPU memory (R41). -/
inductive MemAccess where
  | read (addr : Addr) (b : Byte)
  | write (addr : Addr) (b : Byte)
deriving DecidableEq, Repr

/-- R4, R36, R41: the parameters of the step, which no step changes. `readOnly` lists the address ranges, both ends
included, whose cells discard a write. -/
structure Params where
  periodTable : Vector Period 16
  queueDepth : Option Nat
  readOnly : List (Nat × Nat)
deriving DecidableEq, Repr

/-- What arrives from outside, one at a time (R7, R29, R32, R41). -/
inductive Input where
  /-- a command word of the caller (R60) -/
  | command (w : CommandWord)
  /-- between commands the CPU may change its registers freely (R29) -/
  | cpu (regs : CpuRegs)
  /-- the external memory system now holds `b` at `addr` (R41) -/
  | memory (addr : Addr) (b : Byte)
  /-- the ON-key logic drives its two signals (R32) -/
  | onKey (pressed pending : Bool)
deriving DecidableEq, Repr

/-- The whole machine. -/
structure State where
  sched : Scheduler
  timer : TimerUnit
  onIntEnable : Bool
  romBankHighBit : Bool
  link : Link
  queue : List Byte
  cpu : CpuRegs
  mem : Memory
  busLog : List MemAccess
  onPressed : Bool
  onPending : Bool
  params : Params
  inputs : List Input
  response : Response
  faultLog : List FaultCode
deriving DecidableEq, Repr

/-- The parameters of this machine: the table is free (R4, log 11), the depth is the spec's default (R4, log 12), and
no address discards a write (log 10). -/
def Params.default : Params where
  periodTable := #v[
    Config.period 0, Config.period 1, Config.period 2, Config.period 3,
    Config.period 4, Config.period 5, Config.period 6, Config.period 7,
    Config.period 8, Config.period 9, Config.period 10, Config.period 11,
    Config.period 12, Config.period 13, Config.period 14, Config.period 15]
  queueDepth := none
  readOnly := []

/-- R230: no event is armed, and the cache says so. -/
def Scheduler.reset : Scheduler where
  timer := never
  interrupt := never
  endFrame := never
  nextId := .timer
  nextTime := never

/-- R231: the timer is off and its period is the table's entry 0. -/
def TimerUnit.reset (p : Params) : TimerUnit where
  timerPending := false
  timerIntEnable := false
  timerPeriod := p.periodTable[0]
  timerLastUpdate := 0

/-- R232: the quiescent link. -/
def Link.reset : Link where
  linkStatus := .inactive
  stepsLeft := 0
  bitsLeft := 0
  bytesLeft := 0
  acc := 0
  localOutput := 0b00#2
  xmitOutput := 0b00#2
  action := .doNothing

/-- R233 gives the CPU's registers no reset value: zero is this model's choice (log 7). -/
def CpuRegs.reset : CpuRegs where
  pc := 0
  sp := 0
  iff := false
  halted := false
  im := 0
  i := 0
  r := 0

/-- The machine right after reset (R230 to R233). The ON-key inputs are this model's choice (log 8), and so is the
response that stands before the first command (log 6). -/
def State.reset : State where
  sched := Scheduler.reset
  timer := TimerUnit.reset Params.default
  onIntEnable := false
  romBankHighBit := false
  link := Link.reset
  queue := []
  cpu := CpuRegs.reset
  mem := []
  busLog := []
  onPressed := false
  onPending := false
  params := Params.default
  inputs := []
  response := .ok none 0 0
  faultLog := []

end Sys2Proof.Machine
end

