-- ==== Sys2Proof/Machine/Flags.lean ====
section
/-! DEFINITION. Every flag computation the spec gives: the wires (R25, R139), the interrupt flags (R106), the refresh
register (R110), the cascade condition (R101). There are no arithmetic condition codes (R34). -/

namespace Sys2Proof.Machine

/-- R25, R139: bit i is 1 when wire i is high, that is when neither side pulls it. -/
def Link.lineState (l : Link) : BitVec 2 := (l.localOutput ||| l.xmitOutput) ^^^ 0b11#2

/-- R245: the host's "query link-active status". -/
def Link.active (l : Link) : Bool := l.linkStatus != .inactive

/-- R31, R110: the low seven bits count modulo 128, bit 7 stays. -/
def refreshStep (r : Byte) : Byte := (r &&& 0x80#8) ||| ((r + 1) &&& 0x7F#8)

/-- R106, the CPU's part: both flags cleared, the refresh register advanced. -/
def CpuRegs.afterDelivery (c : CpuRegs) : CpuRegs :=
  { c with iff := false, halted := false, r := refreshStep c.r }

/-- R101: the Timer case runs the Interrupt case in the same command. -/
def cascades (s : State) : Bool := s.cpu.iff && s.sched.interrupt == never

/-- R102: the interrupt mode that has no meaning. -/
def badMode (c : CpuRegs) : Bool := c.im == 3#2

end Sys2Proof.Machine
end

