-- ==== Sys2Proof/Machine/Operands.lean ====
section
/-! DEFINITION. The operand forms: the fields of the byte a port write carries, the byte a port read returns (R35), and
the addresses of the mode-2 vector (R105). -/

namespace Sys2Proof.Machine

/-- R181: `localOutput <- val[1:0]`. -/
def linkWriteLines (val : Byte) : BitVec 2 := val.extractLsb' 0 2

/-- R181: `romBankHighBit <- val[4]`. -/
def linkWriteRomBank (val : Byte) : Bool := val.getLsbD 4

/-- R183: bit 0 enables the ON interrupt. -/
def statusWriteOnInt (val : Byte) : Bool := val.getLsbD 0

/-- R183: bit 1 enables the timer interrupt. -/
def statusWriteTimerInt (val : Byte) : Bool := val.getLsbD 1

/-- R184: the table is indexed by bits 4:1 of the value. -/
def intctlIndex (val : Byte) : BitVec 4 := val.extractLsb' 1 4

/-- R184: the entry of `TIMER_PERIOD_TABLE` at an index. -/
def periodAt (p : Params) (k : BitVec 4) : Period := p.periodTable[k.toNat]'k.isLt

/-- R180: `(romBankHighBit << 4) OR (lineState << 2) OR localOutput`; bits 7:5 are 0. -/
def linkReadByte (romBank : Bool) (l : Link) : Byte :=
  0b000#3 ++ BitVec.ofBool romBank ++ l.lineState ++ l.localOutput

/-- R182: bit 3 is NOT onPressed, bit 1 timerPending, bit 0 onPending; bits 7:4 and 2 read 0. -/
def statusReadByte (onPressed timerPending onPending : Bool) : Byte :=
  0b0000#4 ++ BitVec.ofBool (!onPressed) ++ 0b0#1 ++ BitVec.ofBool timerPending ++ BitVec.ofBool onPending

/-- R105: the address of the vector's low byte, `i || 0x00`. -/
def vectorLow (i : Byte) : Addr := i ++ 0x00#8

/-- R105: the address of the vector's high byte, `i || 0x01`. -/
def vectorHigh (i : Byte) : Addr := i ++ 0x01#8

end Sys2Proof.Machine
end

