-- ==== Sys2Proof/Machine/Ops.lean ====
section
/-! DEFINITION. The named operations over the state: its updates, CPU memory, the event table, the byte queue, the
answer of a command, raising a fault (R201), and the delivery of an interrupt to the CPU (R102 to R109), which is the
block's trap entry (R208). The block has no return from interrupt (R209), so none stands beside it. -/

namespace Sys2Proof.Machine

/-! ## Updates of one part of the state -/

def State.setSched (s : State) (x : Scheduler) : State := { s with sched := x }
def State.setTimer (s : State) (x : TimerUnit) : State := { s with timer := x }
def State.setOnIntEnable (s : State) (b : Bool) : State := { s with onIntEnable := b }
def State.setRomBankHighBit (s : State) (b : Bool) : State := { s with romBankHighBit := b }
def State.setLink (s : State) (x : Link) : State := { s with link := x }
def State.setQueue (s : State) (q : List Byte) : State := { s with queue := q }
def State.setCpu (s : State) (x : CpuRegs) : State := { s with cpu := x }
def State.setMem (s : State) (m : Memory) : State := { s with mem := m }
def State.logAccess (s : State) (a : MemAccess) : State := { s with busLog := s.busLog ++ [a] }
def State.setOnKey (s : State) (pressed pending : Bool) : State :=
  { s with onPressed := pressed, onPending := pending }
def State.setInputs (s : State) (l : List Input) : State := { s with inputs := l }
def State.respond (s : State) (r : Response) : State := { s with response := r }

/-! ## Answers and faults -/

/-- R63: an answer whose fields are all zero. -/
def Response.zero : Response := .ok none 0 0

/-- R200: the fault codes. -/
def FaultCode.code : FaultCode → BitVec 4
  | .illegalCommand => 1
  | .noEventArmed => 2
  | .dispatchNotDue => 3
  | .badInterruptMode => 4
  | .queueUnderflow => 5
  | .queueOverflow => 6
  | .badArm => 7
  | .portNotInBlock => 8
  | .portNotReadable => 9

/-- R63: the fields `done` and `act`, four bits. -/
def strobeBits : Option Action → BitVec 4
  | none => 0b0000#4
  | some a => 0b1#1 ++ a.bits

/-- R63: the 80-bit response word. -/
def Response.word : Response → CommandWord
  | .ok completed data time => 0#4 ++ strobeBits completed ++ data ++ time
  | .fault f => f.code ++ 0#76

/-- R201: a fault writes no state element of the block. It answers with its code (R200), and the model's own sticky
record keeps it (log 5). -/
def State.raise (s : State) (f : FaultCode) : State :=
  { s with response := .fault f, faultLog := s.faultLog ++ [f] }

/-- How a command ends: with the state and the answer its body computed, or with a fault raised in the state the
command STARTED in, whatever the body computed before it (R201). -/
def finish (s : State) (body : Except FaultCode (State × Response)) : Host.Outcome State Fault Refusal :=
  match body with
  | .ok (t, r) => .next (t.respond r)
  | .error f => .next (s.raise f)

/-! ## CPU memory -/

/-- The byte known at an address, if one is. -/
def Memory.read? : Memory → Nat → Option Byte
  | [], _ => none
  | (a, b) :: m, k => if k = a then some b else Memory.read? m k

/-- The memory in which `b` is known at address `k`, in canonical form. -/
def Memory.write : Memory → Nat → Byte → Memory
  | [], k, b => [(k, b)]
  | (a, c) :: m, k, b =>
    if k < a then (k, b) :: (a, c) :: m
    else if k = a then (k, b) :: m
    else (a, c) :: Memory.write m k b

/-- Every cell's address is above `lo`, and the addresses rise strictly. -/
def Memory.risingAbove : Option Nat → Memory → Bool
  | _, [] => true
  | lo, (a, _) :: m => (match lo with | none => true | some l => l < a) && Memory.risingAbove (some a) m

/-- The canonical form: addresses rise strictly and are 16-bit addresses (R40). An unlisted address holds no known byte,
so no cell can equal what an unlisted one holds (log 9). -/
def Memory.wf (m : Memory) : Bool := Memory.risingAbove none m && m.all (fun c => c.1 < 65536)

/-- R41: what `MemRead` answers: the byte known, else the free byte of the external memory (log 9). -/
def State.memByte (s : State) (a : Addr) : Byte := (s.mem.read? a.toNat).getD (Config.externalByte a)

/-- R41: whether the memory system keeps a write to this address (log 10). -/
def Params.keepsWrite (p : Params) (a : Addr) : Bool :=
  !p.readOnly.any (fun r => r.1 ≤ a.toNat && a.toNat ≤ r.2)

/-- R41: `MemRead(addr, 1)`, recorded. -/
def State.memRead (s : State) (a : Addr) : Byte × State := (s.memByte a, s.logAccess (.read a (s.memByte a)))

/-- R41: `MemWrite(addr, 1, b)`, recorded; the memory system may discard it, which the block does not see. -/
def State.memWrite (s : State) (a : Addr) (b : Byte) : State :=
  if s.params.keepsWrite a then (s.setMem (s.mem.write a.toNat b)).logAccess (.write a b)
  else s.logAccess (.write a b)

/-- R109: `sp <- (sp - 1) mod 2^16; MemWrite(sp, 1, b)`. -/
def State.push (s : State) (b : Byte) : State :=
  (s.setCpu { s.cpu with sp := s.cpu.sp - 1 }).memWrite (s.cpu.sp - 1) b

/-! ## The event table -/

/-- R10: read a slot. -/
def Scheduler.eventTime (x : Scheduler) : EventId → Cycles
  | .timer => x.timer
  | .interrupt => x.interrupt
  | .endFrame => x.endFrame

/-- R10: write a slot. -/
def Scheduler.setSlot (x : Scheduler) (id : EventId) (time : Cycles) : Scheduler :=
  match id with
  | .timer => { x with timer := time }
  | .interrupt => { x with interrupt := time }
  | .endFrame => { x with endFrame := time }

/-- R90: the scan of the slots; the comparisons are strict, so an equal time never displaces a lower identity. -/
def Scheduler.nearest (x : Scheduler) : EventId :=
  let best : EventId := .timer
  let best := if x.interrupt < x.eventTime best then .interrupt else best
  if x.endFrame < x.eventTime best then .endFrame else best

/-- R90: `Recompute()`. -/
def Scheduler.recompute (x : Scheduler) : Scheduler :=
  { x with nextId := x.nearest, nextTime := x.eventTime x.nearest }

/-- A slot write followed by `Recompute()`, as every rule that writes a slot has it (R90). -/
def Scheduler.arm (x : Scheduler) (id : EventId) (time : Cycles) : Scheduler := (x.setSlot id time).recompute

/-! ## The byte queue -/

/-- R84: whether a bounded queue is full. -/
def queueFull (depth : Option Nat) (q : List Byte) : Bool :=
  match depth with
  | none => false
  | some d => q.length == d

/-- R84: `Enqueue(b)`. -/
def enqueue (depth : Option Nat) (q : List Byte) (b : Byte) : Except FaultCode (List Byte) :=
  if queueFull depth q then .error .queueOverflow else .ok (q ++ [b])

/-- R84: `Dequeue()`, the oldest byte and what is left. -/
def dequeue (q : List Byte) : Except FaultCode (Byte × List Byte) :=
  match q with
  | [] => .error .queueUnderflow
  | b :: rest => .ok (b, rest)

/-! ## Delivering an interrupt to the CPU: the block's trap entry -/

/-- R104: the fixed mode-1 vector. -/
def im1Vector : Addr := 0x0038#16

/-- R108: what mode 0 costs. -/
def mode0Cost : Cycles := 11
/-- R108: what modes 1 and 2 cost before their memory accesses. -/
def modeBaseCost : Cycles := 7
/-- R108: what one pushed byte costs. -/
def pushCost : Cycles := 3
/-- R108: what one vector byte costs. -/
def vectorReadCost : Cycles := 3

/-- R104, R105: the program counter goes onto the stack, high byte then low byte. -/
def State.pushPc (s : State) : State := (s.push (s.cpu.pc.extractLsb' 8 8)).push (s.cpu.pc.extractLsb' 0 8)

/-- R103. -/
def State.mode0 (s : State) : State × Cycles := (s, mode0Cost)

/-- R104. -/
def State.mode1 (s : State) : State × Cycles :=
  let t := s.pushPc
  (t.setCpu { t.cpu with pc := im1Vector }, modeBaseCost + pushCost + pushCost)

/-- R105: the pushes come before the reads, and the low byte is read before the high byte. -/
def State.mode2 (s : State) : State × Cycles :=
  let t := s.pushPc
  let lo := t.memRead (vectorLow t.cpu.i)
  let hi := lo.2.memRead (vectorHigh t.cpu.i)
  let u := hi.2
  (u.setCpu { u.cpu with pc := hi.1 ++ lo.1 },
    modeBaseCost + pushCost + pushCost + vectorReadCost + vectorReadCost)

/-- R106: `Afterward()`, run after every mode. -/
def State.afterward (s : State) : State :=
  (s.setCpu s.cpu.afterDelivery).setSched (s.sched.arm .interrupt never)

/-- R102: the delivery by interrupt mode, for a mode that has a meaning. -/
def State.byMode (s : State) : State × Cycles :=
  match s.cpu.im with
  | 0#2 => s.mode0
  | 1#2 => s.mode1
  | _ => s.mode2

/-- R102, R208: deliver one interrupt to the CPU and return its cost. The test of the mode comes before any write; `iff`
is not tested (R205). -/
def State.deliverInterrupt (s : State) : Except FaultCode (State × Cycles) :=
  if badMode s.cpu then .error .badInterruptMode
  else .ok (s.byMode.1.afterward, s.byMode.2)

end Sys2Proof.Machine
end

