-- ==== Sys2Proof/Machine/Transport.lean ====
section
/-! DEFINITION. The link bit transport (43_link_bit_transport): `Update()` as one row of R120 per invocation, and UPD,
ARMRX, ARMTX, SETACT. -/

namespace Sys2Proof.Machine

/-- What one `Update()` leaves: the transport, the queue, and the action a completion presented (R134). -/
structure LinkResult where
  link : Link
  queue : List Byte
  completed : Option Action
deriving DecidableEq, Repr

/-- R134: `Complete()`. -/
def completeTransfer (l : Link) : Link × Option Action :=
  ({ l with linkStatus := .inactive, action := .doNothing }, some l.action)

/-- R122: PrepReceive takes the next byte; no wait condition, `xmitOutput` untouched. -/
def prepReceive (l : Link) (q : List Byte) : Except FaultCode LinkResult :=
  match dequeue q with
  | .error f => .error f
  | .ok (b, rest) => .ok ⟨{ l with acc := b, bitsLeft := 8, stepsLeft := 5, linkStatus := .receive }, rest, none⟩

/-- R123: PrepSend waits for both wires idle. -/
def prepSend (l : Link) : Link :=
  if l.lineState = 0b11#2 then { l with linkStatus := .send, bitsLeft := 8, stepsLeft := 5, acc := 0 } else l

/-- R124: drive bit 0 of what is left of the byte; wire 0 low is a 0, wire 1 low is a 1. -/
def receiveStep5 (l : Link) : Link :=
  { l with
    xmitOutput := if l.acc.getLsbD 0 then 0b10#2 else 0b01#2
    acc := l.acc >>> 1
    stepsLeft := 4 }

/-- R125: wait until the CPU side pulls neither wire. -/
def receiveStep4 (l : Link) : Link := if l.localOutput = 0b00#2 then { l with stepsLeft := 3 } else l

/-- R126: release. -/
def receiveStep3 (l : Link) : Link := { l with xmitOutput := 0b00#2, stepsLeft := 2 }

/-- R127: wait until both wires are low. -/
def receiveStep2 (l : Link) : Link := if l.lineState = 0b00#2 then { l with stepsLeft := 1 } else l

/-- R128: the next bit, the next byte, or completion. -/
def receiveStep1 (l : Link) (q : List Byte) : Link × Option Action :=
  let l : Link := { l with bitsLeft := l.bitsLeft - 1 }
  if l.bitsLeft ≠ 0 then ({ l with stepsLeft := 5 }, none)
  else if q.length > 0 then ({ l with linkStatus := .prepReceive }, none)
  else completeTransfer l

/-- R124 to R128 by `stepsLeft`; any other value is stuck (R138). The queue is only looked at. -/
def receiveStep (l : Link) (q : List Byte) : Link × Option Action :=
  match l.stepsLeft with
  | 5#3 => (receiveStep5 l, none)
  | 4#3 => (receiveStep4 l, none)
  | 3#3 => (receiveStep3 l, none)
  | 2#3 => (receiveStep2 l, none)
  | 1#3 => receiveStep1 l q
  | _ => (l, none)

/-- R129: the sampled bit put at its place in the accumulator. With `bitsLeft` above 8 the shift would be negative and
the bit is dropped (R138); with `bitsLeft` = 0 the shift of 8 leaves the 8-bit accumulator (log 17). -/
def sampleInto (l : Link) : Byte :=
  if l.bitsLeft.toNat ≤ 8 then
    l.acc ||| (BitVec.setWidth 8 (l.lineState.extractLsb' 0 1) <<< (8 - l.bitsLeft.toNat))
  else l.acc

/-- R129: wait until the wires are not idle, then sample. -/
def sendStep5 (l : Link) : Link :=
  if l.lineState ≠ 0b11#2 then { l with acc := sampleInto l, stepsLeft := 4 } else l

/-- R130: acknowledge with the complement of what the CPU side drives now. -/
def sendStep4 (l : Link) : Link := { l with xmitOutput := l.localOutput ^^^ 0b11#2, stepsLeft := 3 }

/-- R131: wait until the CPU side pulls neither wire. -/
def sendStep3 (l : Link) : Link := if l.localOutput = 0b00#2 then { l with stepsLeft := 2 } else l

/-- R132: release. -/
def sendStep2 (l : Link) : Link := { l with xmitOutput := 0b00#2, stepsLeft := 1 }

/-- R133: the next bit, or the finished byte is queued and the next byte begins or the transfer completes. A full queue
faults before any write of this step. -/
def sendStep1 (depth : Option Nat) (l : Link) (q : List Byte) : Except FaultCode LinkResult :=
  let l : Link := { l with bitsLeft := l.bitsLeft - 1 }
  if l.bitsLeft ≠ 0 then .ok ⟨{ l with stepsLeft := 5 }, q, none⟩
  else
    match enqueue depth q l.acc with
    | .error f => .error f
    | .ok q =>
      let l : Link := { l with bytesLeft := l.bytesLeft - 1 }
      if l.bytesLeft > 0 then .ok ⟨{ l with linkStatus := .prepSend }, q, none⟩
      else .ok ⟨(completeTransfer l).1, q, (completeTransfer l).2⟩

/-- R129 to R133 by `stepsLeft`; any other value is stuck (R138). -/
def sendStep (depth : Option Nat) (l : Link) (q : List Byte) : Except FaultCode LinkResult :=
  match l.stepsLeft with
  | 5#3 => .ok ⟨sendStep5 l, q, none⟩
  | 4#3 => .ok ⟨sendStep4 l, q, none⟩
  | 3#3 => .ok ⟨sendStep3 l, q, none⟩
  | 2#3 => .ok ⟨sendStep2 l, q, none⟩
  | 1#3 => sendStep1 depth l q
  | _ => .ok ⟨l, q, none⟩

/-- R120: `Update()` performs exactly one row and returns. -/
def updateLink (depth : Option Nat) (l : Link) (q : List Byte) : Except FaultCode LinkResult :=
  match l.linkStatus with
  | .inactive => .ok ⟨l, q, none⟩
  | .prepReceive => prepReceive l q
  | .prepSend => .ok ⟨prepSend l, q, none⟩
  | .receive => .ok ⟨(receiveStep l q).1, q, (receiveStep l q).2⟩
  | .send => sendStep depth l q
  | .unused5 => .ok ⟨l, q, none⟩
  | .unused6 => .ok ⟨l, q, none⟩
  | .unused7 => .ok ⟨l, q, none⟩

/-- R120: `Update()` on the state, with the action a completion presented. -/
def State.update (s : State) : Except FaultCode (State × Option Action) :=
  match updateLink s.params.queueDepth s.link s.queue with
  | .ok r => .ok ((s.setLink r.link).setQueue r.queue, r.completed)
  | .error f => .error f

/-- R120: UPD. -/
def execUpd (s : State) : Host.Outcome State Fault Refusal :=
  finish s <|
    match s.update with
    | .ok (t, completed) => .ok (t, .ok completed 0 0)
    | .error f => .error f

/-- R135: ARMRX. -/
def execArmrx (act : Action) (s : State) : Host.Outcome State Fault Refusal :=
  finish s <|
    if s.link.linkStatus ≠ .inactive ∨ s.queue.length = 0 then .error .badArm
    else .ok (s.setLink { s.link with linkStatus := .prepReceive, action := act }, .zero)

/-- R136: ARMTX. -/
def execArmtx (act : Action) (n : BitVec 32) (s : State) : Host.Outcome State Fault Refusal :=
  finish s <|
    if s.link.linkStatus ≠ .inactive ∨ n = 0 then .error .badArm
    else .ok (s.setLink { s.link with linkStatus := .prepSend, bytesLeft := n, action := act }, .zero)

/-- R137: SETACT, allowed in every status. -/
def execSetact (act : Action) (s : State) : Host.Outcome State Fault Refusal :=
  finish s (.ok (s.setLink { s.link with action := act }, .zero))

end Sys2Proof.Machine
end

