-- ==== Sys2Proof/Machine/Ports.lean ====
section
/-! DEFINITION. RDP and WRP (45_ports). -/

namespace Sys2Proof.Machine

/-- R180: one `Update()`, then the byte, evaluated after it. -/
def readLink (s : State) : Except FaultCode (State × Response) :=
  match s.update with
  | .ok (t, completed) => .ok (t, .ok completed (linkReadByte t.romBankHighBit t.link) 0)
  | .error f => .error f

/-- R182: no state changes. -/
def readStatus (s : State) : Except FaultCode (State × Response) :=
  .ok (s, .ok none (statusReadByte s.onPressed s.timer.timerPending s.onPending) 0)

/-- R180, R182, R185, R187: RDP by port. `cc` is used by no in-block read (R62). -/
def readPort (port : Port) (s : State) : Except FaultCode (State × Response) :=
  match port with
  | .link => readLink s
  | .status => readStatus s
  | .intctl => .error .portNotReadable
  | .keyboard => .error .portNotInBlock
  | .romBank => .error .portNotInBlock
  | .displayControl => .error .portNotInBlock
  | .displayData => .error .portNotInBlock
  | .unassigned => .error .portNotInBlock

/-- RDP. -/
def execRdp (port : Port) (_cc : Cycles) (s : State) : Host.Outcome State Fault Refusal := finish s (readPort port s)

/-- R181, the two writes. -/
def linkWritten (val : Byte) (s : State) : State :=
  (s.setRomBankHighBit (linkWriteRomBank val)).setLink { s.link with localOutput := linkWriteLines val }

/-- R181: the two writes, then one `Update()` when a transfer is under way and execution is within banked ROM; the
`Update()` sees the new `localOutput`. -/
def writeLink (val : Byte) (inBankedRom : Bool) (s : State) : Except FaultCode (State × Response) :=
  if s.link.active && inBankedRom then
    match (linkWritten val s).update with
    | .ok (t, completed) => .ok (t, .ok completed 0 0)
    | .error f => .error f
  else .ok (linkWritten val s, .zero)

/-- R186: the latest multiple of the period at or before `cc`. -/
def anchorOf (cc : Cycles) (p : Period) : Cycles := cc - cc % p.value

/-- R186: `Reanchor(cc)`. -/
def State.reanchor (s : State) (cc : Cycles) : State :=
  let t := s.setTimer { s.timer with timerLastUpdate := anchorOf cc s.timer.timerPeriod }
  if t.timer.timerIntEnable then
    t.setSched (t.sched.arm .timer (t.timer.timerLastUpdate + t.timer.timerPeriod.value))
  else t

/-- R183. -/
def writeStatus (val : Byte) (cc : Cycles) (s : State) : State :=
  let t := s.setOnIntEnable (statusWriteOnInt val)
  if statusWriteTimerInt val then (t.setTimer { t.timer with timerIntEnable := true }).reanchor cc
  else
    (t.setTimer { t.timer with timerIntEnable := false, timerPending := false }).setSched
      (t.sched.arm .timer never)

/-- R184. -/
def writeIntctl (val : Byte) (cc : Cycles) (s : State) : State :=
  (s.setTimer { s.timer with timerPeriod := periodAt s.params (intctlIndex val) }).reanchor cc

/-- R181, R183, R184, R187: WRP by port. -/
def writePort (port : Port) (val : Byte) (cc : Cycles) (inBankedRom : Bool) (s : State) :
    Except FaultCode (State × Response) :=
  match port with
  | .link => writeLink val inBankedRom s
  | .status => .ok (writeStatus val cc s, .zero)
  | .intctl => .ok (writeIntctl val cc s, .zero)
  | .keyboard => .error .portNotInBlock
  | .romBank => .error .portNotInBlock
  | .displayControl => .error .portNotInBlock
  | .displayData => .error .portNotInBlock
  | .unassigned => .error .portNotInBlock

/-- WRP. -/
def execWrp (port : Port) (val : Byte) (cc : Cycles) (inBankedRom : Bool) (s : State) :
    Host.Outcome State Fault Refusal :=
  finish s (writePort port val cc inBankedRom s)

end Sys2Proof.Machine
end

