-- ==== Sys2Proof/Machine/Queue.lean ====
section
/-! DEFINITION. ENQ, DEQ and CLR (40_byte_queue). They are allowed in every link status (R81, R243). -/

namespace Sys2Proof.Machine

/-- R81. -/
def execEnq (b : Byte) (s : State) : Host.Outcome State Fault Refusal :=
  finish s <|
    match enqueue s.params.queueDepth s.queue b with
    | .ok q => .ok (s.setQueue q, .zero)
    | .error f => .error f

/-- R82. -/
def execDeq (s : State) : Host.Outcome State Fault Refusal :=
  finish s <|
    match dequeue s.queue with
    | .ok (b, q) => .ok (s.setQueue q, .ok none b 0)
    | .error f => .error f

/-- R83. -/
def execClr (s : State) : Host.Outcome State Fault Refusal := finish s (.ok (s.setQueue [], .zero))

end Sys2Proof.Machine
end

