-- ==== Sys2Proof/Machine/Scheduler.lean ====
section
/-! DEFINITION. NOP, SCHED and DISP (41_event_scheduler), with the cases of a due event (42_interrupt_dispatch). -/

namespace Sys2Proof.Machine

/-- R93: no state changes, the response is all zero. -/
def execNop (s : State) : Host.Outcome State Fault Refusal := finish s (.ok (s, .zero))

/-- R91: the slot is set and the cache recomputed; `time` is compared with nothing. -/
def execSched (id : EventId) (time : Cycles) (s : State) : Host.Outcome State Fault Refusal :=
  finish s (.ok (s.setSched (s.sched.arm id time), .zero))

/-- R100, the writes of the Timer case: the fired time is the slot's own value, and the Timer is re-armed one period
after it. -/
def timerFired (s : State) : State :=
  (s.setTimer { s.timer with timerPending := true, timerLastUpdate := s.sched.timer }).setSched
    (s.sched.arm .timer (s.sched.timer + s.timer.timerPeriod.value))

/-- R100: `FireTimer()`. Whether it cascades is decided before any write, and a cascade in mode 3 is refused whole. -/
def fireTimer (s : State) : Except FaultCode (State × Cycles) :=
  if cascades s then
    if badMode s.cpu then .error .badInterruptMode else (timerFired s).deliverInterrupt
  else .ok (timerFired s, 0)

/-- R102: `FireInterrupt()` reached directly. -/
def fireInterrupt (s : State) : Except FaultCode (State × Cycles) := s.deliverInterrupt

/-- R107: `FireEndFrame()`. -/
def fireEndFrame (s : State) : State × Cycles := (s.setSched (s.sched.arm .endFrame never), 0)

/-- R92: the case of the cached event. -/
def fire (s : State) : Except FaultCode (State × Cycles) :=
  match s.sched.nextId with
  | .timer => fireTimer s
  | .interrupt => fireInterrupt s
  | .endFrame => .ok (fireEndFrame s)

/-- R92: the tests in the order of R202, then exactly one case; the answer is the cycle count advanced by its cost. -/
def dispatch (cc : Cycles) (s : State) : Except FaultCode (State × Response) :=
  if s.sched.nextTime = never then .error .noEventArmed
  else if cc < s.sched.nextTime then .error .dispatchNotDue
  else
    match fire s with
    | .ok (t, cost) => .ok (t, .ok none 0 (cc + cost))
    | .error f => .error f

/-- R92. -/
def execDisp (cc : Cycles) (s : State) : Host.Outcome State Fault Refusal := finish s (dispatch cc s)

end Sys2Proof.Machine
end

