-- ==== Sys2Proof/Machine/Dispatch.lean ====
section
/-! DEFINITION. One arm per command. -/

namespace Sys2Proof.Machine

def exec (i : Instr) (s : State) : Host.Outcome State Fault Refusal :=
  match i with
  | .nop => Sys2Proof.Machine.execNop s
  | .sched id time => Sys2Proof.Machine.execSched id time s
  | .disp cc => Sys2Proof.Machine.execDisp cc s
  | .rdp port cc => Sys2Proof.Machine.execRdp port cc s
  | .wrp port val cc inBankedRom => Sys2Proof.Machine.execWrp port val cc inBankedRom s
  | .enq b => Sys2Proof.Machine.execEnq b s
  | .deq => Sys2Proof.Machine.execDeq s
  | .clr => Sys2Proof.Machine.execClr s
  | .upd => Sys2Proof.Machine.execUpd s
  | .armrx act => Sys2Proof.Machine.execArmrx act s
  | .armtx act n => Sys2Proof.Machine.execArmtx act n s
  | .setact act => Sys2Proof.Machine.execSetact act s

end Sys2Proof.Machine
end

