-- ==== Sys2Proof/Machine/Requests.lean ====
section
/-! DEFINITION. What the step does around `exec`: the decoding of the caller's command word, the fault of an illegal
one, and the changes the environment makes between commands. -/

namespace Sys2Proof.Machine

/-- R79, R202: the command of a word, or the fault that decoding raises. -/
def commandOf (w : CommandWord) : Except FaultCode Instr :=
  match decode w with
  | .ok i => .ok i
  | .error _ => .error .illegalCommand

/-- R29, R32, R41: a change the environment makes. A command is none. -/
def applyEnvironment (e : Input) (s : State) : State :=
  match e with
  | .command _ => s
  | .cpu regs => s.setCpu regs
  | .memory a b => s.setMem (s.mem.write a.toNat b)
  | .onKey pressed pending => s.setOnKey pressed pending

/-- The word the host's number stands for: bits at `nbits` and above are 0 (log 1). -/
def tableWord (nbits w : Nat) : CommandWord := BitVec.ofNat 80 (w % 2 ^ nbits)

end Sys2Proof.Machine
end

