-- ==== Sys2Proof/Machine/Step.lean ====
section
/-! DEFINITION. One step: what arrives next is taken and carried out to its end (R7, R50). Between commands the block
does nothing, so with nothing to take the state stays (R7, R235, log 3). -/

namespace Sys2Proof.Machine

def step (s : State) : Host.Outcome State Fault Refusal :=
  match s.inputs with
  | [] => .next s
  | .command w :: rest =>
    match commandOf w with
    | .ok i => exec i (s.setInputs rest)
    | .error f => .next ((s.setInputs rest).raise f)
  | .cpu regs :: rest => .next (applyEnvironment (.cpu regs) (s.setInputs rest))
  | .memory a b :: rest => .next (applyEnvironment (.memory a b) (s.setInputs rest))
  | .onKey pressed pending :: rest => .next (applyEnvironment (.onKey pressed pending) (s.setInputs rest))

/-- The caller issues the command word next, before whatever else was to come (log 1). -/
def State.withFetchWord (s : State) (nbits w : Nat) : State :=
  s.setInputs (.command (tableWord nbits w) :: s.inputs)

end Sys2Proof.Machine
end

