-- ==== Sys2Proof/Safety.lean ====
section
/-! DEFINITION. The terms claims are stated in: the reachable-state invariants of R236, the good runs of R201, the
duties of the caller (R9, R234), and the cooperating CPU side of the link (R142). Nothing here is part of a step. -/

namespace Sys2Proof.Machine

/-! ## Invariants -/

/-- R12: `nextTime` is the minimum over the table and `nextId` the smallest identity that has it. -/
def Scheduler.CacheValid (x : Scheduler) : Prop :=
  x.nextTime = x.eventTime x.nextId ∧
  (∀ e, x.nextTime ≤ x.eventTime e) ∧
  (∀ e, x.eventTime e = x.nextTime → x.nextId.bits ≤ e.bits)

/-- R236 items 2 to 6, on the link transport, so far as the transport alone can say them. Two clauses speak of earlier
commands and are no condition on one state: in item 4, that `stepsLeft` is 0 only before the first transfer; in item 5,
that in Send at steps 3 and 2 `xmitOutput` is the complement of the `localOutput` seen when step 4 was done. Both are
`Link.HistoryKept`, a relation of a transport and the next one. -/
structure Link.Inv (l : Link) : Prop where
  /-- item 2 -/
  isState : l.linkStatus ≠ .unused5 ∧ l.linkStatus ≠ .unused6 ∧ l.linkStatus ≠ .unused7
  /-- item 3 -/
  counting : l.linkStatus = .receive ∨ l.linkStatus = .send →
    (1 ≤ l.stepsLeft.toNat ∧ l.stepsLeft.toNat ≤ 5) ∧ (1 ≤ l.bitsLeft.toNat ∧ l.bitsLeft.toNat ≤ 8)
  /-- item 4 -/
  resting : l.linkStatus = .inactive ∨ l.linkStatus = .prepReceive ∨ l.linkStatus = .prepSend →
    l.bitsLeft = 0 ∧ (l.stepsLeft = 0 ∨ l.stepsLeft = 1)
  /-- item 5, outside a byte -/
  released : l.linkStatus = .inactive ∨ l.linkStatus = .prepReceive ∨ l.linkStatus = .prepSend →
    l.xmitOutput = 0b00#2
  /-- item 5, Receive at steps 5, 2, 1 -/
  releasedReceive : l.linkStatus = .receive → l.stepsLeft = 5 ∨ l.stepsLeft = 2 ∨ l.stepsLeft = 1 →
    l.xmitOutput = 0b00#2
  /-- item 5, Send at steps 5, 4, 1 -/
  releasedSend : l.linkStatus = .send → l.stepsLeft = 5 ∨ l.stepsLeft = 4 ∨ l.stepsLeft = 1 →
    l.xmitOutput = 0b00#2
  /-- item 5, Receive at steps 4 and 3 -/
  driving : l.linkStatus = .receive → l.stepsLeft = 4 ∨ l.stepsLeft = 3 →
    l.xmitOutput = 0b01#2 ∨ l.xmitOutput = 0b10#2
  /-- item 6 -/
  bytesToCollect : l.linkStatus = .prepSend ∨ l.linkStatus = .send → 1 ≤ l.bytesLeft.toNat

/-- R236, the history clauses of items 4 and 5, from a transport to the one after a step. Item 4: a transfer starts at
step 5, and `stepsLeft` never returns to 0. Item 5: the Send step 4 leaves the complement of the CPU side's driver on
the wires, and it stays there, whatever the CPU side drives meanwhile, until step 2 is done. -/
structure Link.HistoryKept (l m : Link) : Prop where
  /-- item 4 -/
  startsAtFive : ¬ (l.linkStatus = .receive ∨ l.linkStatus = .send) → m.linkStatus = .receive ∨ m.linkStatus = .send →
    m.stepsLeft = 5
  /-- item 4 -/
  neverZeroAgain : l.stepsLeft ≠ 0 → m.stepsLeft ≠ 0
  /-- item 5: in the command that does step 4, the driver it sees is the one it leaves -/
  acknowledges : l.linkStatus = .send → l.stepsLeft = 4 → m.stepsLeft ≠ 4 →
    m.stepsLeft = 3 ∧ m.xmitOutput = m.localOutput ^^^ 0b11#2
  /-- item 5 -/
  holdsTheAcknowledge : l.linkStatus = .send → l.stepsLeft = 3 ∨ l.stepsLeft = 2 →
    m.linkStatus = .send ∧ ((m.stepsLeft = 3 ∨ m.stepsLeft = 2) ∧ m.xmitOutput = l.xmitOutput ∨
      l.stepsLeft = 2 ∧ m.stepsLeft = 1 ∧ m.xmitOutput = 0b00#2)

/-- R236: what holds between commands in every state reachable from reset. Item 8 speaks of the commands issued so far
and is a statement of its own. -/
structure State.Inv (s : State) : Prop where
  /-- item 1 -/
  cache : s.sched.CacheValid
  /-- items 2 to 6 -/
  link : s.link.Inv
  /-- item 7 -/
  period : s.timer.timerPeriod ∈ s.params.periodTable
  /-- item 9 -/
  bounded : ∀ d, s.params.queueDepth = some d → s.queue.length ≤ d
  /-- the canonical form of CPU memory -/
  memory : s.mem.wf = true

/-! ## Runs -/

/-- `t` is reached from `s` by some number of steps. -/
inductive Reaches (s : State) : State → Prop where
  | refl : Reaches s s
  | tail {t u : State} : Reaches s t → step t = .next u → Reaches s u

/-- R201: a run in which no fault was raised. -/
abbrev State.NoFaultRaised (s : State) : Prop := s.faultLog = []

/-- R201: `NoEventArmed` is fatal, the run is over and is not a good run. The record is sticky, so this holds of every
later state of the run (log 4). -/
abbrev State.RunOver (s : State) : Prop := FaultCode.noEventArmed ∈ s.faultLog

/-- R201: the run from `s` to `t` is a good run. -/
def GoodRun (s t : State) : Prop := Reaches s t ∧ ¬ t.RunOver

/-- R9: quiescent for the link. -/
def State.LinkQuiescent (s : State) : Prop := s.link.linkStatus = .inactive ∧ s.link.action = .doNothing

/-- R234: the frame loop keeps the EndFrame event armed. -/
def State.FrameArmed (s : State) : Prop := s.sched.endFrame ≠ never

/-- R236 item 8: a disabled timer is a disarmed Timer event. -/
def State.DisabledTimerDisarmed (s : State) : Prop := s.timer.timerIntEnable = false → s.sched.timer = never

/-- The next thing to arrive is a SCHED of the Timer event. -/
def State.SchedTimerNext (s : State) : Prop :=
  ∃ w rest time, s.inputs = .command w :: rest ∧ decode w = .ok (.sched .timer time)

/-- R201: the command answers with the fault and writes no state element of the block. The record of faults is the
model's own (log 5) and is left open here. -/
def Raises (i : Instr) (s : State) (f : FaultCode) : Prop :=
  ∃ t, exec i s = .next t ∧ t.response = .fault f ∧ t = { s with response := t.response, faultLog := t.faultLog }

/-! ## Delivery of an interrupt, as the table of R208 has it -/

/-- R108: what a delivery costs, by interrupt mode. -/
def deliveryCost (im : BitVec 2) : Cycles :=
  if im = 0 then 11 else if im = 1 then 13 else 19

/-- R208: what delivery saves, changes and where control goes, from the CPU and memory of `s` to those of `t`. The high
byte of `pc` goes to `sp - 1` and the low byte to `sp - 2`; a cell that discards writes keeps its byte (R41). -/
structure Delivered (s t : State) : Prop where
  iffCleared : t.cpu.iff = false
  haltedCleared : t.cpu.halted = false
  refreshTop : t.cpu.r.getLsbD 7 = s.cpu.r.getLsbD 7
  refreshLow : t.cpu.r.extractLsb' 0 7 = s.cpu.r.extractLsb' 0 7 + 1
  kept : t.cpu.im = s.cpu.im ∧ t.cpu.i = s.cpu.i
  mode0 : s.cpu.im = 0 → t.cpu.pc = s.cpu.pc ∧ t.cpu.sp = s.cpu.sp ∧ t.busLog = s.busLog ∧
    ∀ a, t.memByte a = s.memByte a
  stacked : s.cpu.im = 1 ∨ s.cpu.im = 2 → t.cpu.sp = s.cpu.sp - 2 ∧
    ∀ a, t.memByte a =
      if a = s.cpu.sp - 2 ∧ s.params.keepsWrite a = true then s.cpu.pc.extractLsb' 0 8
      else if a = s.cpu.sp - 1 ∧ s.params.keepsWrite a = true then s.cpu.pc.extractLsb' 8 8
      else s.memByte a
  mode1 : s.cpu.im = 1 → t.cpu.pc = 0x0038#16 ∧
    t.busLog = s.busLog ++ [.write (s.cpu.sp - 1) (s.cpu.pc.extractLsb' 8 8),
      .write (s.cpu.sp - 2) (s.cpu.pc.extractLsb' 0 8)]
  mode2 : s.cpu.im = 2 → t.cpu.pc = t.memByte (s.cpu.i ++ 0x01#8) ++ t.memByte (s.cpu.i ++ 0x00#8) ∧
    t.busLog = s.busLog ++ [.write (s.cpu.sp - 1) (s.cpu.pc.extractLsb' 8 8),
      .write (s.cpu.sp - 2) (s.cpu.pc.extractLsb' 0 8),
      .read (s.cpu.i ++ 0x00#8) (t.memByte (s.cpu.i ++ 0x00#8)),
      .read (s.cpu.i ++ 0x01#8) (t.memByte (s.cpu.i ++ 0x01#8))]

/-- DISP serves the cached event now (R92). -/
abbrev State.Due (s : State) (cc : Cycles) (id : EventId) : Prop :=
  s.sched.nextId = id ∧ s.sched.nextTime ≠ never ∧ s.sched.nextTime ≤ cc

/-- R101: interrupts globally enabled AND no Interrupt event already armed. -/
abbrev State.MayCascade (s : State) : Prop := s.cpu.iff = true ∧ s.sched.interrupt = never

/-! ## The queue seen by the file-protocol layer (R85) -/

/-- The state after a command that answers without a fault. -/
def ran (i : Instr) (s : State) : Option State :=
  match exec i s with
  | .next t => match t.response with
    | .ok _ _ _ => some t
    | .fault _ => none
  | .fault _ => none
  | .refused _ => none

/-- ENQ of each byte in turn. -/
def enqAll : List Byte → State → Option State
  | [], s => some s
  | b :: bs, s => do
    let t ← ran (.enq b) s
    enqAll bs t

/-- `n` DEQs: the bytes answered, in order. -/
def deqAll : Nat → State → Option (List Byte × State)
  | 0, s => some ([], s)
  | n + 1, s => do
    let t ← ran .deq s
    let y ← deqAll n t
    match t.response with
    | .ok _ b _ => some (b :: y.1, y.2)
    | .fault _ => none

/-- R84: a queue of the given depth has room for `n` more bytes. -/
def HasRoom (depth : Option Nat) (q : List Byte) (n : Nat) : Prop := ∀ d, depth = some d → q.length + n ≤ d

/-! ## The CPU side of the link, cooperating (R142) -/

/-- The CPU side drives its two lines. -/
def State.peerDrives (s : State) (v : BitVec 2) : State := s.setLink { s.link with localOutput := v }

/-- R140: the commands in which an `Update()` happens. -/
def RunsUpdate (i : Instr) (s : State) : Prop :=
  i = .upd ∨ (∃ cc, i = .rdp .link cc) ∨ (s.link.linkStatus ≠ .inactive ∧ ∃ v cc, i = .wrp .link v cc true)

/-- One `Update()` that raises no fault: the state and the action a completion presented. -/
def State.updated (s : State) : Option (State × Option Action) := s.update.toOption

/-- What each `Update()` of a run presented, one entry for each invocation in order (R134). -/
abbrev Strobes := List (Option Action)

/-- R139, R142: the bit on the wires. Wire 1 low alone is a 1, wire 0 low alone is a 0; idle wires and both wires low
are no bit. -/
def wireBit (line : BitVec 2) : Option Bool :=
  match line with
  | 0b01#2 => some true
  | 0b10#2 => some false
  | _ => none

/-- R142, one bit of a Receive: the CPU side sees exactly one wire low after step 5, keeps released through steps 4 and
3, pulls both wires for step 2, and releases before step 1. -/
def receiveBit (s : State) : Option (Bool × State × Strobes) := do
  let a ← s.updated
  let v ← wireBit a.1.link.lineState
  let b ← a.1.updated
  let c ← b.1.updated
  let d ← (c.1.peerDrives 0b11#2).updated
  let e ← (d.1.peerDrives 0b00#2).updated
  some (v, e.1, [a.2, b.2, c.2, d.2, e.2])

/-- The bits of `n` handshakes in the order they arrive. -/
def receiveBits : Nat → State → Option (List Bool × State × Strobes)
  | 0, s => some ([], s, [])
  | n + 1, s => do
    let x ← receiveBit s
    let y ← receiveBits n x.2.1
    some (x.1 :: y.1, y.2.1, x.2.2 ++ y.2.2)

/-- One byte of a Receive: the pre-state transition and eight handshakes, 41 invocations (R141). -/
def receiveByte (s : State) : Option (List Bool × State × Strobes) := do
  let a ← s.updated
  let x ← receiveBits 8 a.1
  some (x.1, x.2.1, a.2 :: x.2.2)

/-- `k` bytes of a Receive. -/
def receiveBytes : Nat → State → Option (List (List Bool) × State × Strobes)
  | 0, s => some ([], s, [])
  | k + 1, s => do
    let x ← receiveByte s
    let y ← receiveBytes k x.2.1
    some (x.1 :: y.1, y.2.1, x.2.2 ++ y.2.2)

/-- One bit of a Send: the CPU side pulls wire 0 for a 0 and wire 1 for a 1 (R139) until the acknowledge of step 4, then
releases. -/
def sendBit (v : Bool) (s : State) : Option (State × Strobes) := do
  let a ← (s.peerDrives (if v then 0b10#2 else 0b01#2)).updated
  let b ← a.1.updated
  let c ← (b.1.peerDrives 0b00#2).updated
  let d ← c.1.updated
  let e ← d.1.updated
  some (e.1, [a.2, b.2, c.2, d.2, e.2])

/-- The handshakes of a list of bits. -/
def sendBits : List Bool → State → Option (State × Strobes)
  | [], s => some (s, [])
  | v :: vs, s => do
    let x ← sendBit v s
    let y ← sendBits vs x.1
    some (y.1, x.2 ++ y.2)

/-- The bits of a byte, least significant first. -/
def bitsOf (b : Byte) : List Bool := (List.range 8).map b.getLsbD

/-- One byte of a Send: the pre-state transition and eight handshakes. -/
def sendByte (b : Byte) (s : State) : Option (State × Strobes) := do
  let a ← s.updated
  let x ← sendBits (bitsOf b) a.1
  some (x.1, a.2 :: x.2)

/-- The bytes of a Send. -/
def sendBytes : List Byte → State → Option (State × Strobes)
  | [], s => some (s, [])
  | b :: bs, s => do
    let x ← sendByte b s
    let y ← sendBytes bs x.1
    some (y.1, x.2 ++ y.2)

end Sys2Proof.Machine
end

