-- ==== Sys2Proof/Certificates/Slice0/Obligations.lean ====
section
/-! DEFINITION. The statements for the provers, each from the numbered rules of spec/ that its docstring cites. A next
state written as a record update of the starting state says the frame too: every field not named is unchanged, CPU
memory included. `response` is the response word of R63; `faultLog` is the model's own record (log 5), which only the
statements that name log 5 speak of. -/

open Sys2Proof Sys2Proof.Machine

/-! ## Reset, the step, encodings -/

/-- R230, R231, R232: what reset leaves in the block's own state, that this satisfies the cache invariant and is the
quiescent link state of R9, and that no event being armed a DISP issued now raises `NoEventArmed`. -/
def Obligations.ResetLeavesTheBlockIdle : Prop :=
  State.reset.sched = ⟨never, never, never, .timer, never⟩ ∧ State.reset.sched.CacheValid ∧
  State.reset.timer.timerPending = false ∧ State.reset.timer.timerIntEnable = false ∧
  State.reset.onIntEnable = false ∧
  State.reset.timer.timerPeriod = State.reset.params.periodTable[0] ∧
  State.reset.timer.timerLastUpdate = 0 ∧ State.reset.romBankHighBit = false ∧
  State.reset.link = ⟨.inactive, 0, 0, 0, 0, 0b00#2, 0b00#2, .doNothing⟩ ∧
  State.reset.link.lineState = 0b11#2 ∧ State.reset.queue = [] ∧ State.reset.LinkQuiescent ∧
  ∀ cc : Cycles, Raises (.disp cc) State.reset .noEventArmed

/-- R236: the invariants that are conditions on one state hold at reset (with the memory's canonical form, which is the model's own, log 9). -/
def Obligations.ResetSatisfiesTheInvariants : Prop := State.reset.Inv

/-- R64 to R75 on words written out from the spec's encodings, one of each command, and one word of each kind R79
refuses. -/
def Obligations.SampleWordsDecodeAsTheSpecSays : Prop :=
  decode 0x00000000000000000000#80 = .ok .nop ∧
  decode 0x12000000000000011170#80 = .ok (.sched .endFrame 70000) ∧
  decode 0x20000000000000000064#80 = .ok (.disp 100) ∧
  decode 0x3000FFFFFFFFFFFFFFFF#80 = .ok (.rdp .link never) ∧
  decode 0x4B5A0000000000000010#80 = .ok (.wrp .status 0x5A 16 true) ∧
  decode 0x50A50000000000000000#80 = .ok (.enq 0xA5) ∧
  decode 0x60000000000000000000#80 = .ok .deq ∧
  decode 0x70000000000000000000#80 = .ok .clr ∧
  decode 0x80000000000000000000#80 = .ok .upd ∧
  decode 0x90000000000000000000#80 = .ok (.armrx .receiveReqAck) ∧
  decode 0xA20000000000FFFFFFFF#80 = .ok (.armtx .receiveDataAck 4294967295) ∧
  decode 0xB5000000000000000000#80 = .ok (.setact .finalizeFile) ∧
  decode 0x00000000000000000001#80 = .error .unusedFieldNotZero ∧
  decode 0x13000000000000000005#80 = .error .eventIdThree ∧
  decode 0xB7000000000000000000#80 = .error .actionIdSeven ∧
  decode 0xC0000000000000000000#80 = .error .reservedOp

/-- R7, log 1: when the caller's next word decodes to a command, the step takes the word and is `exec` of that command. -/
def Obligations.StepRunsTheDecodedCommand : Prop :=
  ∀ (s : State) (w : CommandWord) (rest : List Input) (i : Instr),
    s.inputs = .command w :: rest → decode w = .ok i → step s = exec i { s with inputs := rest }

/-- R7, R235, logs 1 to 3: with nothing to take the block does nothing; an input of the environment changes what it
names and nothing else. A byte the memory system supplies is the byte read there, and every other address keeps what it
had. -/
def Obligations.StepBetweenCommands : Prop :=
  ∀ (s : State) (rest : List Input),
    (s.inputs = [] → step s = .next s) ∧
    (∀ regs, s.inputs = .cpu regs :: rest → step s = .next { s with inputs := rest, cpu := regs }) ∧
    (∀ p q, s.inputs = .onKey p q :: rest →
      step s = .next { s with inputs := rest, onPressed := p, onPending := q }) ∧
    (∀ a b, s.inputs = .memory a b :: rest → ∃ t, step s = .next t ∧
      t = { s with inputs := rest, mem := t.mem } ∧ ∀ x, t.memByte x = if x = a then b else s.memByte x)

/-- R79: a word is refused by the decoder exactly when one of the rule's four clauses holds, and the step then raises
`IllegalCommand` and changes nothing else; RDP and WRP decode with every port select, and raise `PortNotInBlock` with
those outside 0, 3 and 4. -/
def Obligations.IllegalWordsRaiseIllegalCommand : Prop :=
  (∀ w : CommandWord, (fieldsOf w).legal = true ↔ ∃ i, decode w = .ok i) ∧
  (∀ (s : State) (w : CommandWord) (rest : List Input),
    s.inputs = .command w :: rest → (fieldsOf w).legal = false →
    ∃ t, step s = .next t ∧ t = { s with
      inputs := rest, response := .fault .illegalCommand, faultLog := t.faultLog }) ∧
  (∀ (p : BitVec 3) (cc : Cycles) (v : Byte) (rom : Bool),
    ∃ port, decode (0x3#4 ++ (0#1 ++ p) ++ 0x00#8 ++ cc) = .ok (.rdp port cc) ∧
      decode (0x4#4 ++ (BitVec.ofBool rom ++ p) ++ v ++ cc) = .ok (.wrp port v cc rom) ∧
      (p ≠ 0 → p ≠ 3 → p ≠ 4 → ∀ s : State,
        Raises (.rdp port cc) s .portNotInBlock ∧ Raises (.wrp port v cc rom) s .portNotInBlock))

/-- R60 to R75: the encoder and the decoder agree on every command, so no bit of an operand is dropped. -/
def Obligations.DecodeOfEncodeIsTheCommand : Prop := ∀ i : Instr, decode (encode i) = .ok i

/-- R62, R79: each word has one meaning: a word that decodes is the word of the command it decodes to. -/
def Obligations.EncodeOfDecodeIsTheWord : Prop := ∀ (w : CommandWord) (i : Instr), decode w = .ok i → encode i = w

/-- 30_encoding section 2: a word decodes to a command exactly when it matches that command's row of match and mask and
meets the row's side condition. The rows do not overlap. -/
def Obligations.DecoderAgreesWithTheOpcodeTable : Prop :=
  (∀ (w : CommandWord) (i : Instr), decode w = .ok i →
    ∃ row ∈ opcodeTable, row.mnemonic = i.mnemonic ∧ w &&& row.mask = row.pattern ∧
      (row.mnemonic = "SCHED" → w.extractLsb' 72 2 ≠ 3) ∧
      (row.mnemonic ∈ ["ARMRX", "ARMTX", "SETACT"] → w.extractLsb' 72 3 ≠ 7)) ∧
  (∀ (w : CommandWord), ∀ row ∈ opcodeTable, w &&& row.mask = row.pattern →
    (∃ i, decode w = .ok i ∧ i.mnemonic = row.mnemonic) ∨
    (row.mnemonic = "SCHED" ∧ w.extractLsb' 72 2 = 3) ∨
    (row.mnemonic ∈ ["ARMRX", "ARMTX", "SETACT"] ∧ w.extractLsb' 72 3 = 7)) ∧
  (∀ (w : CommandWord), ∀ r₁ ∈ opcodeTable, ∀ r₂ ∈ opcodeTable,
    w &&& r₁.mask = r₁.pattern → w &&& r₂.mask = r₂.pattern → r₁ = r₂)

/-- R63, R200: the fields of the response word, the fault codes, and which commands answer with something in them. -/
def Obligations.ResponseWordFields : Prop :=
  (∀ (c : Option Action) (d : Byte) (t : Cycles),
    (Response.ok c d t).word.extractLsb' 76 4 = 0 ∧
    (Response.ok c d t).word.getLsbD 75 = c.isSome ∧
    (Response.ok c d t).word.extractLsb' 72 3 = (match c with | some a => a.bits | none => 0) ∧
    (Response.ok c d t).word.extractLsb' 64 8 = d ∧
    (Response.ok c d t).word.extractLsb' 0 64 = t) ∧
  (∀ f : FaultCode, (Response.fault f).word.extractLsb' 0 76 = 0 ∧
    ((Response.fault f).word.extractLsb' 76 4).toNat = (match f with
      | .illegalCommand => 1 | .noEventArmed => 2 | .dispatchNotDue => 3 | .badInterruptMode => 4
      | .queueUnderflow => 5 | .queueOverflow => 6 | .badArm => 7 | .portNotInBlock => 8 | .portNotReadable => 9)) ∧
  (∀ (i : Instr) (s t : State) (c : Option Action) (d : Byte) (τ : Cycles),
    exec i s = .next t → t.response = .ok c d τ →
    (d ≠ 0 → (∃ p cc, i = .rdp p cc) ∨ i = .deq) ∧
    (τ ≠ 0 → ∃ cc, i = .disp cc) ∧
    (c ≠ none → i = .upd ∨ (∃ cc, i = .rdp .link cc) ∨ ∃ v cc, i = .wrp .link v cc true))

/-! ## The event scheduler and the dispatcher -/

/-- R93. -/
def Obligations.NopChangesNothing : Prop :=
  ∀ s : State, exec .nop s = .next { s with response := .ok none 0 0 }

/-- R91, and R65's illegal id 3: SCHED sets its slot and no other, and leaves the cache valid. -/
def Obligations.SchedWritesItsSlotAndRecomputes : Prop :=
  (∀ (id : EventId) (time : Cycles) (s : State), ∃ t, exec (.sched id time) s = .next t ∧
    t.sched.eventTime id = time ∧ (∀ e, e ≠ id → t.sched.eventTime e = s.sched.eventTime e) ∧
    t.sched.CacheValid ∧ t = { s with sched := t.sched, response := .ok none 0 0 }) ∧
  (∀ time : Cycles, decode (0x1#4 ++ 0b0011#4 ++ 0x00#8 ++ time) = .error .eventIdThree)

/-- R92, R202: DISP's tests in their order; each leaves the block as it was. The Interrupt case would run directly, or by
cascade out of the Timer case. -/
def Obligations.DispatchFaultsInOrder : Prop :=
  ∀ (cc : Cycles) (s : State),
    (s.sched.nextTime = never → Raises (.disp cc) s .noEventArmed) ∧
    (s.sched.nextTime ≠ never → cc < s.sched.nextTime → Raises (.disp cc) s .dispatchNotDue) ∧
    (s.Due cc .interrupt ∨ (s.Due cc .timer ∧ s.MayCascade) → s.cpu.im = 3 → Raises (.disp cc) s .badInterruptMode)

/-- R100, R101, and R102 to R106 with R109 for the delivery: the Timer case. Pending is set, the slot's own time recorded, and the Timer re-armed one period after it.
It stops there, at no cost, unless interrupts are enabled and no Interrupt event is armed; then one interrupt is
delivered in the same command, or in mode 3 the whole command is refused. Which writes to memory are discarded is the
model's parameter (log 10), and so is the form of the record of accesses (log 16). -/
def Obligations.TimerFireAndItsCascade : Prop :=
  ∀ (cc : Cycles) (s : State), s.Due cc .timer →
    (¬ s.MayCascade → ∃ t, exec (.disp cc) s = .next t ∧
      t.sched.timer = s.sched.timer + s.timer.timerPeriod.value ∧
      t.sched.interrupt = s.sched.interrupt ∧ t.sched.endFrame = s.sched.endFrame ∧ t.sched.CacheValid ∧
      t = { s with
        sched := t.sched
        timer := { s.timer with timerPending := true, timerLastUpdate := s.sched.timer }
        response := .ok none 0 cc }) ∧
    (s.MayCascade → s.cpu.im ≠ 3 → ∃ t, exec (.disp cc) s = .next t ∧ Delivered s t ∧
      t.sched.timer = s.sched.timer + s.timer.timerPeriod.value ∧
      t.sched.interrupt = never ∧ t.sched.endFrame = s.sched.endFrame ∧ t.sched.CacheValid ∧
      t = { s with
        sched := t.sched
        timer := { s.timer with timerPending := true, timerLastUpdate := s.sched.timer }
        cpu := t.cpu, mem := t.mem, busLog := t.busLog
        response := .ok none 0 (cc + deliveryCost s.cpu.im) }) ∧
    (s.MayCascade → s.cpu.im = 3 → Raises (.disp cc) s .badInterruptMode)

/-- R102 to R106, R109, R110, R205, R208: an Interrupt event served directly, whatever `iff` is (the spec's own
inference, "§4.2 lists no such test", in R102), and refused in mode 3. Which writes to memory are discarded is the
model's parameter (log 10), and so is the form of the record of accesses (log 16). -/
def Obligations.InterruptFireDelivers : Prop :=
  ∀ (cc : Cycles) (s : State), s.Due cc .interrupt →
    (s.cpu.im ≠ 3 → ∃ t, exec (.disp cc) s = .next t ∧ Delivered s t ∧
      t.sched.timer = s.sched.timer ∧ t.sched.interrupt = never ∧ t.sched.endFrame = s.sched.endFrame ∧
      t.sched.CacheValid ∧
      t = { s with
        sched := t.sched, cpu := t.cpu, mem := t.mem, busLog := t.busLog
        response := .ok none 0 (cc + deliveryCost s.cpu.im) }) ∧
    (s.cpu.im = 3 → Raises (.disp cc) s .badInterruptMode)

/-- R107: the EndFrame case disarms itself and touches nothing else. -/
def Obligations.EndFrameFireDisarmsItself : Prop :=
  ∀ (cc : Cycles) (s : State), s.Due cc .endFrame →
    ∃ t, exec (.disp cc) s = .next t ∧
      t.sched.timer = s.sched.timer ∧ t.sched.interrupt = s.sched.interrupt ∧ t.sched.endFrame = never ∧
      t.sched.CacheValid ∧ t = { s with sched := t.sched, response := .ok none 0 cc }

/-- R94, R108: the cycle count a DISP answers is the caller's advanced by the cost of the branch that ran. -/
def Obligations.DispatchReturnsTheBranchCost : Prop :=
  ∀ (cc : Cycles) (s t : State) (c : Option Action) (d : Byte) (τ : Cycles),
    exec (.disp cc) s = .next t → t.response = .ok c d τ →
    τ = cc +
      (if s.sched.nextId = .interrupt ∨
          (s.sched.nextId = .timer ∧ s.cpu.iff = true ∧ s.sched.interrupt = never) then
        (if s.cpu.im = 0 then 11 else if s.cpu.im = 1 then 7 + 3 + 3 else 7 + 3 + 3 + 3 + 3)
      else 0)

/-- R207: with a valid cache, the event whose case runs is the earliest, ties to the lower identity, and it is due; one
per DISP, so no other slot changes; and when Timer and Interrupt are due together the Timer's fire delivers nothing. -/
def Obligations.DispatchServesTheEarliestEvent : Prop :=
  ∀ (cc : Cycles) (s t : State) (c : Option Action) (d : Byte) (τ : Cycles),
    s.sched.CacheValid → exec (.disp cc) s = .next t → t.response = .ok c d τ →
    (∃ e : EventId,
      (∀ e', s.sched.eventTime e < s.sched.eventTime e' ∨
        (s.sched.eventTime e = s.sched.eventTime e' ∧ e.bits ≤ e'.bits)) ∧
      s.sched.eventTime e ≠ never ∧ s.sched.eventTime e ≤ cc ∧
      (e = .timer → t.timer.timerPending = true ∧ t.timer.timerLastUpdate = s.sched.timer ∧
        t.sched.timer = s.sched.timer + s.timer.timerPeriod.value) ∧
      (e = .interrupt → t.sched.interrupt = never ∧ t.cpu.iff = false ∧ t.cpu.halted = false ∧
        t.cpu.r = refreshStep s.cpu.r) ∧
      (e = .endFrame → t.sched.endFrame = never)) ∧
    (t.sched.endFrame ≠ s.sched.endFrame →
      s.sched.endFrame < s.sched.timer ∧ s.sched.endFrame < s.sched.interrupt ∧
      t.sched.timer = s.sched.timer ∧ t.sched.interrupt = s.sched.interrupt) ∧
    (t.sched.interrupt ≠ s.sched.interrupt →
      s.sched.interrupt < s.sched.timer ∧ s.sched.interrupt ≤ s.sched.endFrame ∧
      t.sched.timer = s.sched.timer ∧ t.sched.endFrame = s.sched.endFrame) ∧
    (t.sched.timer ≠ s.sched.timer →
      s.sched.timer ≤ s.sched.interrupt ∧ s.sched.timer ≤ s.sched.endFrame ∧
      t.sched.interrupt = s.sched.interrupt ∧ t.sched.endFrame = s.sched.endFrame) ∧
    (s.sched.timer = s.sched.interrupt → s.sched.timer ≤ s.sched.endFrame →
      t.cpu = s.cpu ∧ t.sched.interrupt = s.sched.interrupt ∧ ∀ a, t.memByte a = s.memByte a)

/-- R111, and the frame of DISP: what no case of DISP writes, and every byte of memory but the two pushed ones. -/
def Obligations.DispatchFrame : Prop :=
  ∀ (cc : Cycles) (s t : State), exec (.disp cc) s = .next t →
    t.link = s.link ∧ t.queue = s.queue ∧ t.onIntEnable = s.onIntEnable ∧
    t.romBankHighBit = s.romBankHighBit ∧ t.timer.timerIntEnable = s.timer.timerIntEnable ∧
    t.timer.timerPeriod = s.timer.timerPeriod ∧ t.onPressed = s.onPressed ∧ t.onPending = s.onPending ∧
    t.params = s.params ∧ t.inputs = s.inputs ∧ t.cpu.im = s.cpu.im ∧ t.cpu.i = s.cpu.i ∧
    (∀ a, a ≠ s.cpu.sp - 1 → a ≠ s.cpu.sp - 2 → t.memByte a = s.memByte a) ∧
    (s.cpu.im = 0 ∨ s.sched.nextId = .endFrame ∨ (s.sched.nextId = .timer ∧ ¬ s.MayCascade) →
      ∀ a, t.memByte a = s.memByte a)

/-- R12, R96: every sequence of steps keeps the cached pair the argmin of the table, lowest identity winning ties. -/
def Obligations.CacheStaysTheArgmin : Prop :=
  ∀ s t : State, s.sched.CacheValid → Reaches s t → t.sched.CacheValid

/-! ## The byte queue -/

/-- R81, R82, R83, R84: the three queue commands, with their faults. -/
def Obligations.QueueCommands : Prop :=
  (∀ (b : Byte) (s : State), s.params.queueDepth ≠ some s.queue.length →
    exec (.enq b) s = .next { s with queue := s.queue ++ [b], response := .ok none 0 0 }) ∧
  (∀ (b : Byte) (s : State), s.params.queueDepth = some s.queue.length →
    Raises (.enq b) s .queueOverflow) ∧
  (∀ (b : Byte) (rest : List Byte) (s : State), s.queue = b :: rest →
    exec .deq s = .next { s with queue := rest, response := .ok none b 0 }) ∧
  (∀ s : State, s.queue = [] → Raises .deq s .queueUnderflow) ∧
  (∀ s : State, exec .clr s = .next { s with queue := [], response := .ok none 0 0 })

/-- R80, R85: bytes leave in the order they entered: ENQ of any bytes behind what the queue holds, then as many DEQs as
it then holds, answers all of them in order and leaves it empty. -/
def Obligations.QueueIsFirstInFirstOut : Prop :=
  ∀ (bs : List Byte) (s : State), HasRoom s.params.queueDepth s.queue bs.length →
    ∃ t u, enqAll bs s = some t ∧ t.queue.length = s.queue.length + bs.length ∧
      deqAll (s.queue.length + bs.length) t = some (s.queue ++ bs, u) ∧ u.queue = []

/-! ## The link bit transport -/

/-- R25, R139: a wire is high exactly when neither side pulls it. -/
def Obligations.LineStateIsTheWiredOr : Prop :=
  ∀ (l : Link) (i : Nat), i < 2 →
    (l.lineState.getLsbD i = true ↔ l.localOutput.getLsbD i = false ∧ l.xmitOutput.getLsbD i = false)

/-- R121, R138: UPD on an inactive transport, and outside the reachable set: nothing, but for the 4-bit wrap of
`bitsLeft` at step 1 and the sample dropped above 8. That a sample is dropped at `bitsLeft` = 0 too is the model's
reading of R129 under R5 (log 17): the shift by 8 leaves the accumulator. -/
def Obligations.UpdInactiveOrOutOfRange : Prop :=
  (∀ s : State, s.link.linkStatus ∈ [LinkStatus.inactive, .unused5, .unused6, .unused7] ∨
      (s.link.linkStatus ∈ [LinkStatus.receive, .send] ∧ s.link.stepsLeft ∈ [0#3, 6#3, 7#3]) →
    exec .upd s = .next { s with response := .ok none 0 0 }) ∧
  (∀ s : State, s.link.linkStatus ∈ [LinkStatus.receive, .send] → s.link.stepsLeft = 1 → s.link.bitsLeft = 0 →
    exec .upd s = .next { s with
      link := { s.link with bitsLeft := 15, stepsLeft := 5 }, response := .ok none 0 0 }) ∧
  (∀ s : State, s.link.linkStatus = .send → s.link.stepsLeft = 5 →
    8 < s.link.bitsLeft.toNat ∨ s.link.bitsLeft = 0 → s.link.lineState ≠ 0b11#2 →
    exec .upd s = .next { s with link := { s.link with stepsLeft := 4 }, response := .ok none 0 0 })

/-- R122, R123: the two pre-states. -/
def Obligations.UpdPreStates : Prop :=
  (∀ (s : State) (b : Byte) (rest : List Byte), s.link.linkStatus = .prepReceive → s.queue = b :: rest →
    exec .upd s = .next { s with
      link := { s.link with acc := b, bitsLeft := 8, stepsLeft := 5, linkStatus := .receive }
      queue := rest, response := .ok none 0 0 }) ∧
  (∀ s : State, s.link.linkStatus = .prepReceive → s.queue = [] →
    Raises .upd s .queueUnderflow) ∧
  (∀ s : State, s.link.linkStatus = .prepSend → s.link.lineState = 0b11#2 →
    exec .upd s = .next { s with
      link := { s.link with linkStatus := .send, bitsLeft := 8, stepsLeft := 5, acc := 0 }
      response := .ok none 0 0 }) ∧
  (∀ s : State, s.link.linkStatus = .prepSend → s.link.lineState ≠ 0b11#2 →
    exec .upd s = .next { s with response := .ok none 0 0 })

/-- R124, R125, R126, R127: steps 5 to 2 of a Receive, with their holds. -/
def Obligations.UpdReceiveSteps : Prop :=
  ∀ s : State, s.link.linkStatus = .receive →
    (s.link.stepsLeft = 5 → exec .upd s = .next { s with
      link := { s.link with
        xmitOutput := if s.link.acc.getLsbD 0 = true then 0b10#2 else 0b01#2
        acc := s.link.acc >>> 1, stepsLeft := 4 }
      response := .ok none 0 0 }) ∧
    (s.link.stepsLeft = 4 → s.link.localOutput = 0b00#2 → exec .upd s = .next { s with
      link := { s.link with stepsLeft := 3 }, response := .ok none 0 0 }) ∧
    (s.link.stepsLeft = 4 → s.link.localOutput ≠ 0b00#2 →
      exec .upd s = .next { s with response := .ok none 0 0 }) ∧
    (s.link.stepsLeft = 3 → exec .upd s = .next { s with
      link := { s.link with xmitOutput := 0b00#2, stepsLeft := 2 }, response := .ok none 0 0 }) ∧
    (s.link.stepsLeft = 2 → s.link.lineState = 0b00#2 → exec .upd s = .next { s with
      link := { s.link with stepsLeft := 1 }, response := .ok none 0 0 }) ∧
    (s.link.stepsLeft = 2 → s.link.lineState ≠ 0b00#2 →
      exec .upd s = .next { s with response := .ok none 0 0 })

/-- R128, R134: step 1 of a Receive: the next bit, the next byte, or completion with its strobe. -/
def Obligations.UpdReceiveStepOne : Prop :=
  ∀ s : State, s.link.linkStatus = .receive → s.link.stepsLeft = 1 →
    (s.link.bitsLeft ≠ 1 → exec .upd s = .next { s with
      link := { s.link with bitsLeft := s.link.bitsLeft - 1, stepsLeft := 5 }, response := .ok none 0 0 }) ∧
    (s.link.bitsLeft = 1 → s.queue ≠ [] → exec .upd s = .next { s with
      link := { s.link with bitsLeft := 0, linkStatus := .prepReceive }, response := .ok none 0 0 }) ∧
    (s.link.bitsLeft = 1 → s.queue = [] → exec .upd s = .next { s with
      link := { s.link with bitsLeft := 0, linkStatus := .inactive, action := .doNothing }
      response := .ok (some s.link.action) 0 0 })

/-- R129, R130, R131, R132: steps 5 to 2 of a Send, with their holds. Bit `8 - bitsLeft` of the accumulator takes the
sample (which is set only where wire 0 is high) and every other bit stays. -/
def Obligations.UpdSendSteps : Prop :=
  ∀ s : State, s.link.linkStatus = .send →
    (s.link.stepsLeft = 5 → 1 ≤ s.link.bitsLeft.toNat → s.link.bitsLeft.toNat ≤ 8 → s.link.lineState ≠ 0b11#2 →
      ∃ acc : Byte, exec .upd s = .next { s with
        link := { s.link with acc := acc, stepsLeft := 4 }, response := .ok none 0 0 } ∧
      ∀ k, k < 8 → acc.getLsbD k =
        (s.link.acc.getLsbD k || (decide (k = 8 - s.link.bitsLeft.toNat) && s.link.lineState.getLsbD 0))) ∧
    (s.link.stepsLeft = 5 → s.link.lineState = 0b11#2 → exec .upd s = .next { s with response := .ok none 0 0 }) ∧
    (s.link.stepsLeft = 4 → exec .upd s = .next { s with
      link := { s.link with xmitOutput := s.link.localOutput ^^^ 0b11#2, stepsLeft := 3 }
      response := .ok none 0 0 }) ∧
    (s.link.stepsLeft = 3 → s.link.localOutput = 0b00#2 → exec .upd s = .next { s with
      link := { s.link with stepsLeft := 2 }, response := .ok none 0 0 }) ∧
    (s.link.stepsLeft = 3 → s.link.localOutput ≠ 0b00#2 →
      exec .upd s = .next { s with response := .ok none 0 0 }) ∧
    (s.link.stepsLeft = 2 → exec .upd s = .next { s with
      link := { s.link with xmitOutput := 0b00#2, stepsLeft := 1 }, response := .ok none 0 0 })

/-- R133, R134: step 1 of a Send: the next bit; or the byte is queued and the next byte begins or the transfer completes
with its strobe; or the queue is full and nothing is written. That the step goes back to 5 while bits remain is the
spec's own inference, "[derived: from rule R128]", in R133; that a `bytesLeft` of 0 wraps is the model's (log 17). -/
def Obligations.UpdSendStepOne : Prop :=
  ∀ s : State, s.link.linkStatus = .send → s.link.stepsLeft = 1 →
    (s.link.bitsLeft ≠ 1 → exec .upd s = .next { s with
      link := { s.link with bitsLeft := s.link.bitsLeft - 1, stepsLeft := 5 }, response := .ok none 0 0 }) ∧
    (s.link.bitsLeft = 1 → s.params.queueDepth = some s.queue.length → Raises .upd s .queueOverflow) ∧
    (s.link.bitsLeft = 1 → s.params.queueDepth ≠ some s.queue.length → s.link.bytesLeft ≠ 1 → exec .upd s = .next { s with
      link := { s.link with bitsLeft := 0, bytesLeft := s.link.bytesLeft - 1, linkStatus := .prepSend }
      queue := s.queue ++ [s.link.acc], response := .ok none 0 0 }) ∧
    (s.link.bitsLeft = 1 → s.params.queueDepth ≠ some s.queue.length → s.link.bytesLeft = 1 → exec .upd s = .next { s with
      link := { s.link with bitsLeft := 0, bytesLeft := 0, linkStatus := .inactive, action := .doNothing }
      queue := s.queue ++ [s.link.acc], response := .ok (some s.link.action) 0 0 })

/-- R134, and R128, R133, R140 for where it happens: a completion comes in the response of a command that runs an
`Update()` (UPD, RDP Link, WRP Link), from step 1 of a Receive or a Send, presents the action that was current, and leaves
the transport Inactive with `DoNothing`; and a command that takes an active transport to Inactive strobes. -/
def Obligations.CompletionStrobesTheCurrentAction : Prop :=
  ∀ (i : Instr) (s t : State) (c : Option Action) (d : Byte) (τ : Cycles),
    exec i s = .next t → t.response = .ok c d τ →
    (∀ a, c = some a → RunsUpdate i s ∧ a = s.link.action ∧ t.link.linkStatus = .inactive ∧ t.link.action = .doNothing ∧
      (s.link.linkStatus = .receive ∨ s.link.linkStatus = .send) ∧ s.link.stepsLeft = 1) ∧
    (s.link.linkStatus ≠ .inactive → t.link.linkStatus = .inactive → c = some s.link.action)

/-- R135, R136, R137: the arming commands, with `BadArm`. -/
def Obligations.ArmingCommands : Prop :=
  (∀ (act : Action) (s : State), s.link.linkStatus = .inactive → s.queue ≠ [] →
    exec (.armrx act) s = .next { s with
      link := { s.link with linkStatus := .prepReceive, action := act }, response := .ok none 0 0 }) ∧
  (∀ (act : Action) (s : State), s.link.linkStatus ≠ .inactive ∨ s.queue = [] →
    Raises (.armrx act) s .badArm) ∧
  (∀ (act : Action) (n : BitVec 32) (s : State), s.link.linkStatus = .inactive → n ≠ 0#32 →
    exec (.armtx act n) s = .next { s with
      link := { s.link with linkStatus := .prepSend, bytesLeft := n, action := act }
      response := .ok none 0 0 }) ∧
  (∀ (act : Action) (n : BitVec 32) (s : State), s.link.linkStatus ≠ .inactive ∨ n = 0#32 →
    Raises (.armtx act n) s .badArm) ∧
  (∀ (act : Action) (s : State),
    exec (.setact act) s = .next { s with link := { s.link with action := act }, response := .ok none 0 0 })

/-- R140: nothing but an `Update()` advances the transport: a command that is not UPD, a Link read, or, while a transfer is
under way, a Link write from banked ROM leaves its position, counters, accumulator and driver; only arming changes
`linkStatus` then. -/
def Obligations.OnlyAnUpdateMovesTheTransport : Prop :=
  ∀ (i : Instr) (s t : State), exec i s = .next t →
    i ≠ .upd → (∀ cc, i ≠ .rdp .link cc) →
    (s.link.linkStatus ≠ .inactive → ∀ v cc, i ≠ .wrp .link v cc true) →
    t.link.stepsLeft = s.link.stepsLeft ∧ t.link.bitsLeft = s.link.bitsLeft ∧ t.link.acc = s.link.acc ∧
    t.link.xmitOutput = s.link.xmitOutput ∧
    ((∀ a, i ≠ .armrx a) → (∀ a n, i ≠ .armtx a n) → t.link.linkStatus = s.link.linkStatus)

/-- R141, R142: one bit of a Receive with a cooperating CPU side takes five invocations and shows it, as exactly one low
wire, bit 0 of what was left of the byte; none of the five presents a completion. The count is the spec's own inference,
R141. -/
def Obligations.ReceiveBitHandshake : Prop :=
  ∀ s : State, s.link.linkStatus = .receive → s.link.stepsLeft = 5 → s.link.localOutput = 0b00#2 →
    2 ≤ s.link.bitsLeft.toNat →
    receiveBit s = some (s.link.acc.getLsbD 0,
      { s with link := { s.link with
          acc := s.link.acc >>> 1, bitsLeft := s.link.bitsLeft - 1, xmitOutput := 0b00#2 } }, List.replicate 5 none)

/-- R142: the byte taken from the queue is the byte the CPU side reads, each bit as exactly one low wire, least-significant
bit first. That this takes 41 invocations is the spec's own inference, R141. R128, R134: with an empty queue the last one
completes, and no other invocation does; the accumulator then is 0. -/
def Obligations.ReceiveByteArrivesLsbFirst : Prop :=
  ∀ (s : State) (b : Byte) (rest : List Byte),
    s.link.linkStatus = .prepReceive → s.queue = b :: rest → s.link.localOutput = 0b00#2 →
    ∃ t, receiveByte s = some (bitsOf b, t,
        List.replicate 40 none ++ [if rest = [] then some s.link.action else none]) ∧
      t.queue = rest ∧ t.link.localOutput = 0b00#2 ∧ t.link.acc = 0 ∧
      t.link.linkStatus = (if rest = [] then .inactive else .prepReceive) ∧
      t.link.action = (if rest = [] then .doNothing else s.link.action)

/-- R141, R142, R134: a Receive of k queued bytes delivers exactly them in order in 41*k invocations, and of all of these
the last presents the completion and no other does. That the count is 41*k is the spec's own inference, R141. -/
def Obligations.ReceiveDeliversTheWholeQueue : Prop :=
  ∀ s : State, s.link.linkStatus = .prepReceive → s.queue ≠ [] → s.link.localOutput = 0b00#2 →
    ∃ t, receiveBytes s.queue.length s = some (s.queue.map bitsOf, t,
        List.replicate (41 * s.queue.length - 1) none ++ [some s.link.action]) ∧
      t.queue = [] ∧ t.LinkQuiescent

/-- R141, R133, R134: a Send of n bytes with a cooperating CPU side appends exactly the bytes it sent, in order, in 41*n
invocations, and of all of these the last presents the completion and no other does. That the count is 41 for a byte is
the spec's own inference, R141. -/
def Obligations.SendCollectsTheBytes : Prop :=
  ∀ (bs : List Byte) (s : State), s.link.linkStatus = .prepSend → bs ≠ [] →
    s.link.localOutput = 0b00#2 → s.link.xmitOutput = 0b00#2 → s.link.bytesLeft.toNat = bs.length →
    HasRoom s.params.queueDepth s.queue bs.length →
    ∃ t, sendBytes bs s = some (t, List.replicate (41 * bs.length - 1) none ++ [some s.link.action]) ∧
      t.queue = s.queue ++ bs ∧ t.LinkQuiescent ∧ t.link.bytesLeft = 0

/-! ## The ports -/

/-- R180: a Link read is one `Update()` and then the byte; its fault is the `Update()`'s; on an inactive transport it
changes nothing. -/
def Obligations.LinkReadUpdatesThenReads : Prop :=
  (∀ (cc : Cycles) (s : State), s.link.linkStatus = .inactive → exec (.rdp .link cc) s = .next { s with
    response := .ok none
      ((if s.romBankHighBit then 0x10#8 else 0) ||| (s.link.lineState.setWidth 8 <<< 2) |||
        s.link.localOutput.setWidth 8) 0 }) ∧
  ∀ (cc : Cycles) (s t : State), exec .upd s = .next t →
    (∀ c d τ, t.response = .ok c d τ → exec (.rdp .link cc) s = .next { t with
      response := .ok c
        ((if s.romBankHighBit then 0x10#8 else 0) ||| (t.link.lineState.setWidth 8 <<< 2) |||
          t.link.localOutput.setWidth 8) 0 }) ∧
    (∀ f, t.response = .fault f → Raises (.rdp .link cc) s f)

/-- R181: a Link write sets the two fields, and re-drives the transport only from banked ROM while a transfer is under
way; on a fault of that `Update()` neither field is written. -/
def Obligations.LinkWriteSetsThenRedrives : Prop :=
  ∀ (v : Byte) (cc : Cycles) (rom : Bool) (s w : State),
    w = { s with
      romBankHighBit := v.getLsbD 4, link := { s.link with localOutput := v.extractLsb' 0 2 } } →
    (s.link.linkStatus = .inactive ∨ rom = false → exec (.wrp .link v cc rom) s =
      .next { w with response := .ok none 0 0 }) ∧
    (s.link.linkStatus ≠ .inactive → rom = true → ∀ t, exec .upd w = .next t →
      (∀ c d τ, t.response = .ok c d τ → exec (.wrp .link v cc rom) s = .next { t with response := .ok c 0 0 }) ∧
      (∀ f, t.response = .fault f → Raises (.wrp .link v cc rom) s f))

/-- R182: the Status read changes nothing. -/
def Obligations.StatusReadHasNoSideEffect : Prop :=
  ∀ (cc : Cycles) (s : State), exec (.rdp .status cc) s = .next { s with
    response := .ok none
      ((if s.onPressed then 0 else 0x08#8) ||| (if s.timer.timerPending then 0x02#8 else 0) |||
        (if s.onPending then 0x01#8 else 0)) 0 }

/-- R183: the Status write, by its bits 0 and 1; one with bit 1 clear is the only way `timerPending` is ever cleared. -/
def Obligations.StatusWriteEnablesOrDisables : Prop :=
  (∀ (i : Instr) (s t : State), exec i s = .next t → s.timer.timerPending = true → t.timer.timerPending = false →
    ∃ v cc rom, i = .wrp .status v cc rom ∧ v.getLsbD 1 = false) ∧
  ∀ (v : Byte) (cc : Cycles) (rom : Bool) (s : State),
    (v.getLsbD 1 = true → ∃ t, exec (.wrp .status v cc rom) s = .next t ∧
      t.timer = { s.timer with
        timerIntEnable := true, timerLastUpdate := cc - cc % s.timer.timerPeriod.value } ∧
      t.sched.timer = cc - cc % s.timer.timerPeriod.value + s.timer.timerPeriod.value ∧
      t.sched.interrupt = s.sched.interrupt ∧ t.sched.endFrame = s.sched.endFrame ∧ t.sched.CacheValid ∧
      t = { s with
        sched := t.sched, timer := t.timer, onIntEnable := v.getLsbD 0, response := .ok none 0 0 }) ∧
    (v.getLsbD 1 = false → ∃ t, exec (.wrp .status v cc rom) s = .next t ∧
      t.timer = { s.timer with timerIntEnable := false, timerPending := false } ∧
      t.sched.timer = never ∧
      t.sched.interrupt = s.sched.interrupt ∧ t.sched.endFrame = s.sched.endFrame ∧ t.sched.CacheValid ∧
      t = { s with
        sched := t.sched, timer := t.timer, onIntEnable := v.getLsbD 0, response := .ok none 0 0 })

/-- R184: the Interrupt-control write selects the period by bits 4:1 and re-anchors; it arms the Timer only where the
timer interrupt is enabled. -/
def Obligations.IntctlWriteSelectsThePeriod : Prop :=
  ∀ (v : Byte) (cc : Cycles) (rom : Bool) (s : State) (k : Fin 16) (p : Period),
    k.val = v.toNat / 2 % 16 → p = s.params.periodTable[k] →
    (s.timer.timerIntEnable = true → ∃ t, exec (.wrp .intctl v cc rom) s = .next t ∧
      t.sched.timer = cc - cc % p.value + p.value ∧
      t.sched.interrupt = s.sched.interrupt ∧ t.sched.endFrame = s.sched.endFrame ∧ t.sched.CacheValid ∧
      t = { s with
        sched := t.sched
        timer := { s.timer with timerPeriod := p, timerLastUpdate := cc - cc % p.value }
        response := .ok none 0 0 }) ∧
    (s.timer.timerIntEnable = false → exec (.wrp .intctl v cc rom) s = .next { s with
      timer := { s.timer with timerPeriod := p, timerLastUpdate := cc - cc % p.value }
      response := .ok none 0 0 })

/-- R186: after a re-anchoring write the anchor is the latest multiple of the period at or before the cycle count; where
the timer interrupt is enabled the Timer is armed one period past it, barring 64-bit wrap strictly after the cycle count;
where it is not, the event table stays. -/
def Obligations.ReanchorHitsThePeriodGrid : Prop :=
  ∀ (port : Port) (v : Byte) (cc : Cycles) (rom : Bool) (s : State),
    port = .intctl ∨ (port = .status ∧ v.getLsbD 1 = true) →
    ∃ t, exec (.wrp port v cc rom) s = .next t ∧
      t.timer.timerPeriod.value.toNat ∣ t.timer.timerLastUpdate.toNat ∧
      t.timer.timerLastUpdate.toNat ≤ cc.toNat ∧
      cc.toNat < t.timer.timerLastUpdate.toNat + t.timer.timerPeriod.value.toNat ∧
      (t.timer.timerIntEnable = true →
        t.sched.timer = t.timer.timerLastUpdate + t.timer.timerPeriod.value ∧ t.sched.CacheValid ∧
        (t.timer.timerLastUpdate.toNat + t.timer.timerPeriod.value.toNat < 2 ^ 64 → cc < t.sched.timer)) ∧
      (t.timer.timerIntEnable = false → t.sched = s.sched)

/-- R247, which the spec derives from R183, R184 and R186: a re-anchoring write loses a fire that was due and not
dispatched: `timerPending` is not set for it, and (barring 64-bit wrap) the Timer moves to the first multiple of the
period after `cc`. -/
def Obligations.ReanchoringWriteLosesAnOverdueFire : Prop :=
  ∀ (port : Port) (v : Byte) (cc : Cycles) (rom : Bool) (s : State),
    (port = .status ∧ v.getLsbD 1 = true) ∨ (port = .intctl ∧ s.timer.timerIntEnable = true) →
    s.sched.timer ≤ cc →
    ∃ t, exec (.wrp port v cc rom) s = .next t ∧ t.timer.timerPending = s.timer.timerPending ∧
      (cc.toNat + t.timer.timerPeriod.value.toNat < 2 ^ 64 → s.sched.timer < t.sched.timer ∧ cc < t.sched.timer ∧
        t.timer.timerPeriod.value.toNat ∣ t.sched.timer.toNat ∧
        t.sched.timer.toNat ≤ cc.toNat + t.timer.timerPeriod.value.toNat)

/-- R185, R187: the reads and writes that raise a fault, with no state change. -/
def Obligations.PortsWithoutAMeaningRaise : Prop :=
  ∀ (cc : Cycles) (v : Byte) (rom : Bool) (s : State),
    (Raises (.rdp .intctl cc) s .portNotReadable) ∧
    (∀ p ∈ [Port.keyboard, .romBank, .displayControl, .displayData, .unassigned],
      Raises (.rdp p cc) s .portNotInBlock ∧
      Raises (.wrp p v cc rom) s .portNotInBlock)

/-! ## Whole-machine rules -/

/-- R9, R41: no command and no step stops the machine. That DISP with nothing armed goes on to a next state, where R201
would have `NoEventArmed` treated as fatal, is the model's choice (log 4), and so is the step that has nothing to take
(log 3). -/
def Obligations.TheBlockNeverHalts : Prop :=
  (∀ (i : Instr) (s : State), ∃ t, exec i s = .next t) ∧ (∀ s : State, ∃ t, step s = .next t)

/-- R201: a faulting command writes no state element; only the answer and the model's own record of faults (log 5) show
it, and a command that raises nothing leaves that record. -/
def Obligations.FaultsLeaveNoTrace : Prop :=
  ∀ (i : Instr) (s t : State), exec i s = .next t →
    (∀ f, t.response = .fault f → t = { s with response := .fault f, faultLog := s.faultLog ++ [f] }) ∧
    (∀ c d τ, t.response = .ok c d τ → t.faultLog = s.faultLog)

/-- R201, logs 4 and 5: the record of faults is sticky, so a run in which `NoEventArmed` was raised is never a good run
again, and one that ends without a fault never had one. -/
def Obligations.FaultRecordIsSticky : Prop :=
  ∀ s t : State, Reaches s t → s.faultLog <+: t.faultLog ∧ (s.RunOver → t.RunOver) ∧
    (t.NoFaultRaised → s.NoFaultRaised)

/-- R40(a): only DISP reaches CPU memory and the CPU's registers. -/
def Obligations.OnlyDispatchReachesTheCpu : Prop :=
  ∀ (i : Instr) (s t : State), exec i s = .next t → (∀ cc, i ≠ .disp cc) →
    t.cpu = s.cpu ∧ t.busLog = s.busLog ∧ ∀ a, t.memByte a = s.memByte a

/-- R30, R31, R209: the block never writes `im` or `i` and never sets `iff` or `halted`. -/
def Obligations.TheBlockNeverSetsTheInterruptFlags : Prop :=
  ∀ (i : Instr) (s t : State), exec i s = .next t →
    t.cpu.im = s.cpu.im ∧ t.cpu.i = s.cpu.i ∧
    (t.cpu.iff = true → s.cpu.iff = true) ∧ (t.cpu.halted = true → s.cpu.halted = true)

/-- R13: `timerPending` is set by a Timer fire only and cleared only by a Status write with bit 1 clear. -/
def Obligations.TimerPendingHasOneSetterAndOneClearer : Prop :=
  ∀ (i : Instr) (s t : State), exec i s = .next t →
    (s.timer.timerPending = false → t.timer.timerPending = true →
      (∃ cc, i = .disp cc) ∧ s.sched.nextId = .timer ∧ t.timer.timerLastUpdate = s.sched.timer) ∧
    (s.timer.timerPending = true → t.timer.timerPending = false →
      ∃ v cc rom, i = .wrp .status v cc rom ∧ v.getLsbD 1 = false)

/-- R10, R12, R14 to R28, R36, R37, R140: which commands may change each event slot and the cached pair, each timer and
port register (`timerPending` in the statement above), each field of the transport, and the queue; nothing changes the
parameters, the inputs or what is still to come. -/
def Obligations.RegistersHaveTheirOwnWriters : Prop :=
  ∀ (i : Instr) (s t : State), exec i s = .next t →
    (t.onIntEnable ≠ s.onIntEnable ∨ t.timer.timerIntEnable ≠ s.timer.timerIntEnable →
      ∃ v cc rom, i = .wrp .status v cc rom) ∧
    (t.timer.timerPeriod ≠ s.timer.timerPeriod → ∃ v cc rom, i = .wrp .intctl v cc rom) ∧
    (t.romBankHighBit ≠ s.romBankHighBit ∨ t.link.localOutput ≠ s.link.localOutput →
      ∃ v cc rom, i = .wrp .link v cc rom) ∧
    (t.link.bytesLeft ≠ s.link.bytesLeft → (∃ a n, i = .armtx a n) ∨ s.link.linkStatus = .send) ∧
    (t.link.action ≠ s.link.action → (∃ a, i = .armrx a) ∨ (∃ a n, i = .armtx a n) ∨ (∃ a, i = .setact a) ∨
      ∃ d, t.response = .ok (some s.link.action) d 0) ∧
    (t.sched.timer ≠ s.sched.timer → (∃ time, i = .sched .timer time) ∨ (∃ cc, i = .disp cc) ∨
      (∃ v cc rom, i = .wrp .status v cc rom) ∨ ∃ v cc rom, i = .wrp .intctl v cc rom) ∧
    (t.sched.interrupt ≠ s.sched.interrupt → (∃ time, i = .sched .interrupt time) ∨ ∃ cc, i = .disp cc) ∧
    (t.sched.endFrame ≠ s.sched.endFrame → (∃ time, i = .sched .endFrame time) ∨ ∃ cc, i = .disp cc) ∧
    (t.sched.nextId ≠ s.sched.nextId ∨ t.sched.nextTime ≠ s.sched.nextTime →
      (∃ e time, i = .sched e time) ∨ (∃ cc, i = .disp cc) ∨
      (∃ v cc rom, i = .wrp .status v cc rom) ∨ ∃ v cc rom, i = .wrp .intctl v cc rom) ∧
    (t.timer.timerLastUpdate ≠ s.timer.timerLastUpdate → (∃ cc, i = .disp cc) ∨
      (∃ v cc rom, i = .wrp .status v cc rom) ∨ ∃ v cc rom, i = .wrp .intctl v cc rom) ∧
    (t.link.xmitOutput ≠ s.link.xmitOutput ∨ t.link.stepsLeft ≠ s.link.stepsLeft ∨
      t.link.bitsLeft ≠ s.link.bitsLeft ∨ t.link.acc ≠ s.link.acc → RunsUpdate i s) ∧
    (t.link.linkStatus ≠ s.link.linkStatus → RunsUpdate i s ∨ (∃ a, i = .armrx a) ∨ ∃ a n, i = .armtx a n) ∧
    (t.queue ≠ s.queue → RunsUpdate i s ∨ (∃ b, i = .enq b) ∨ i = .deq ∨ i = .clr) ∧
    t.params = s.params ∧ t.inputs = s.inputs ∧ t.onPressed = s.onPressed ∧ t.onPending = s.onPending

/-- R37, R111: the link side does not learn from the timer side or the CPU: a command takes two states that agree on the
link transport, the queue and its depth to states that agree on the transport and the queue. -/
def Obligations.LinkSideIgnoresTheTimerSide : Prop :=
  ∀ (i : Instr) (s s' t t' : State), s.link = s'.link → s.queue = s'.queue →
    s.params.queueDepth = s'.params.queueDepth → exec i s = .next t → exec i s' = .next t' →
    t.link = t'.link ∧ t.queue = t'.queue

/-! ## Invariants -/

/-- R236 items 1 to 7 and 9, and the canonical form of memory: every step keeps them. Left out here, since they speak of
earlier commands and not of one state, are item 4's "0 only before the first transfer, 1 ever after" and item 5's clause
on Send at steps 3 and 2; `StepKeepsTheTransportsHistory` below has both. -/
def Obligations.StepKeepsTheInvariants : Prop :=
  ∀ s t : State, s.Inv → step s = .next t → t.Inv

/-- R236 item 8: while the timer interrupt is disabled and no SCHED of the Timer event is issued, the Timer event stays
disarmed. -/
def Obligations.ADisabledTimerStaysDisarmed : Prop :=
  ∀ s t : State, s.sched.CacheValid → s.DisabledTimerDisarmed → ¬ s.SchedTimerNext → step s = .next t →
    t.DisabledTimerDisarmed

/-- Log 9: every step keeps memory in its canonical form. -/
def Obligations.StepKeepsMemoryCanonical : Prop :=
  ∀ s t : State, s.mem.wf = true → step s = .next t → t.mem.wf = true

/-- R236, the history clauses of items 4 and 5: a transfer starts at step 5 and `stepsLeft` never returns to 0; the Send
step 4 leaves the complement of the `localOutput` it sees on the wires, and no step of the block takes it away, whatever
the CPU side drives meanwhile, until step 2 is done. -/
def Obligations.StepKeepsTheTransportsHistory : Prop :=
  ∀ s t : State, step s = .next t → s.link.HistoryKept t.link
end

