-- ==== Sys2Proof/Laws/Decode.lean ====
section
/-! SUPPORT. The fields of a command word and the word of its fields, and the codes of the closed operand sets. -/

namespace Sys2Proof

/-- The fields read back from a word are the ones it was made of. -/
@[simp] theorem fieldsOf_word (c : RawCommand) : fieldsOf c.word = c := by
  obtain ⟨op, sel, data, time⟩ := c
  simp only [fieldsOf, RawCommand.word, RawCommand.mk.injEq]
  refine ⟨?_, ?_, ?_, ?_⟩ <;> ext i hi <;>
    simp only [BitVec.getElem_extractLsb', BitVec.getLsbD_append] <;> grind

/-- A word is the word of its fields. -/
@[simp] theorem word_fieldsOf (w : CommandWord) : (fieldsOf w).word = w := by
  ext i hi
  simp only [fieldsOf, RawCommand.word]
  grind

/-- Two words with the same fields are one. -/
theorem word_injective {c d : RawCommand} (h : c.word = d.word) : c = d := by
  rw [← fieldsOf_word c, h, fieldsOf_word]

/-- A mask applies field by field. -/
theorem word_and_word (c d : RawCommand) :
    c.word &&& d.word = (RawCommand.mk (c.op &&& d.op) (c.sel &&& d.sel) (c.data &&& d.data) (c.time &&& d.time)).word := by
  ext i hi
  simp only [RawCommand.word]
  grind

@[simp] theorem EventId.ofBits_bits (e : EventId) : EventId.ofBits e.bits = some e := by cases e <;> rfl
@[simp] theorem Action.ofBits_bits (a : Action) : Action.ofBits a.bits = some a := by cases a <;> rfl
@[simp] theorem Port.ofBits_bits (p : Port) : Port.ofBits p.bits = p := by cases p <;> rfl

theorem EventId.bits_ofBits {b : BitVec 2} {e : EventId} (h : EventId.ofBits b = some e) : e.bits = b := by
  unfold EventId.ofBits at h; split at h <;> cases h <;> rfl

theorem Action.bits_ofBits {b : BitVec 3} {a : Action} (h : Action.ofBits b = some a) : a.bits = b := by
  unfold Action.ofBits at h; split at h <;> cases h <;> rfl

theorem Port.bits_ofBits (b : BitVec 3) : (Port.ofBits b).bits = b := by
  revert b; decide

end Sys2Proof
end

