-- ==== Sys2Proof/Laws/State.lean ====
section
/-! SUPPORT. One lemma per field per update of the state, true by `rfl`, so that no later proof unfolds an update. -/

namespace Sys2Proof.Machine.State

variable (s : State)

/-! `setSched` -/

@[simp] theorem setSched_sched (x : Scheduler) : (s.setSched x).sched = x := rfl
@[simp] theorem setSched_timer (x : Scheduler) : (s.setSched x).timer = s.timer := rfl
@[simp] theorem setSched_onIntEnable (x : Scheduler) : (s.setSched x).onIntEnable = s.onIntEnable := rfl
@[simp] theorem setSched_romBankHighBit (x : Scheduler) : (s.setSched x).romBankHighBit = s.romBankHighBit := rfl
@[simp] theorem setSched_link (x : Scheduler) : (s.setSched x).link = s.link := rfl
@[simp] theorem setSched_queue (x : Scheduler) : (s.setSched x).queue = s.queue := rfl
@[simp] theorem setSched_cpu (x : Scheduler) : (s.setSched x).cpu = s.cpu := rfl
@[simp] theorem setSched_mem (x : Scheduler) : (s.setSched x).mem = s.mem := rfl
@[simp] theorem setSched_busLog (x : Scheduler) : (s.setSched x).busLog = s.busLog := rfl
@[simp] theorem setSched_onPressed (x : Scheduler) : (s.setSched x).onPressed = s.onPressed := rfl
@[simp] theorem setSched_onPending (x : Scheduler) : (s.setSched x).onPending = s.onPending := rfl
@[simp] theorem setSched_params (x : Scheduler) : (s.setSched x).params = s.params := rfl
@[simp] theorem setSched_inputs (x : Scheduler) : (s.setSched x).inputs = s.inputs := rfl
@[simp] theorem setSched_response (x : Scheduler) : (s.setSched x).response = s.response := rfl
@[simp] theorem setSched_faultLog (x : Scheduler) : (s.setSched x).faultLog = s.faultLog := rfl

/-! `setTimer` -/

@[simp] theorem setTimer_sched (x : TimerUnit) : (s.setTimer x).sched = s.sched := rfl
@[simp] theorem setTimer_timer (x : TimerUnit) : (s.setTimer x).timer = x := rfl
@[simp] theorem setTimer_onIntEnable (x : TimerUnit) : (s.setTimer x).onIntEnable = s.onIntEnable := rfl
@[simp] theorem setTimer_romBankHighBit (x : TimerUnit) : (s.setTimer x).romBankHighBit = s.romBankHighBit := rfl
@[simp] theorem setTimer_link (x : TimerUnit) : (s.setTimer x).link = s.link := rfl
@[simp] theorem setTimer_queue (x : TimerUnit) : (s.setTimer x).queue = s.queue := rfl
@[simp] theorem setTimer_cpu (x : TimerUnit) : (s.setTimer x).cpu = s.cpu := rfl
@[simp] theorem setTimer_mem (x : TimerUnit) : (s.setTimer x).mem = s.mem := rfl
@[simp] theorem setTimer_busLog (x : TimerUnit) : (s.setTimer x).busLog = s.busLog := rfl
@[simp] theorem setTimer_onPressed (x : TimerUnit) : (s.setTimer x).onPressed = s.onPressed := rfl
@[simp] theorem setTimer_onPending (x : TimerUnit) : (s.setTimer x).onPending = s.onPending := rfl
@[simp] theorem setTimer_params (x : TimerUnit) : (s.setTimer x).params = s.params := rfl
@[simp] theorem setTimer_inputs (x : TimerUnit) : (s.setTimer x).inputs = s.inputs := rfl
@[simp] theorem setTimer_response (x : TimerUnit) : (s.setTimer x).response = s.response := rfl
@[simp] theorem setTimer_faultLog (x : TimerUnit) : (s.setTimer x).faultLog = s.faultLog := rfl

/-! `setOnIntEnable` -/

@[simp] theorem setOnIntEnable_sched (b : Bool) : (s.setOnIntEnable b).sched = s.sched := rfl
@[simp] theorem setOnIntEnable_timer (b : Bool) : (s.setOnIntEnable b).timer = s.timer := rfl
@[simp] theorem setOnIntEnable_onIntEnable (b : Bool) : (s.setOnIntEnable b).onIntEnable = b := rfl
@[simp] theorem setOnIntEnable_romBankHighBit (b : Bool) : (s.setOnIntEnable b).romBankHighBit = s.romBankHighBit := rfl
@[simp] theorem setOnIntEnable_link (b : Bool) : (s.setOnIntEnable b).link = s.link := rfl
@[simp] theorem setOnIntEnable_queue (b : Bool) : (s.setOnIntEnable b).queue = s.queue := rfl
@[simp] theorem setOnIntEnable_cpu (b : Bool) : (s.setOnIntEnable b).cpu = s.cpu := rfl
@[simp] theorem setOnIntEnable_mem (b : Bool) : (s.setOnIntEnable b).mem = s.mem := rfl
@[simp] theorem setOnIntEnable_busLog (b : Bool) : (s.setOnIntEnable b).busLog = s.busLog := rfl
@[simp] theorem setOnIntEnable_onPressed (b : Bool) : (s.setOnIntEnable b).onPressed = s.onPressed := rfl
@[simp] theorem setOnIntEnable_onPending (b : Bool) : (s.setOnIntEnable b).onPending = s.onPending := rfl
@[simp] theorem setOnIntEnable_params (b : Bool) : (s.setOnIntEnable b).params = s.params := rfl
@[simp] theorem setOnIntEnable_inputs (b : Bool) : (s.setOnIntEnable b).inputs = s.inputs := rfl
@[simp] theorem setOnIntEnable_response (b : Bool) : (s.setOnIntEnable b).response = s.response := rfl
@[simp] theorem setOnIntEnable_faultLog (b : Bool) : (s.setOnIntEnable b).faultLog = s.faultLog := rfl

/-! `setRomBankHighBit` -/

@[simp] theorem setRomBankHighBit_sched (b : Bool) : (s.setRomBankHighBit b).sched = s.sched := rfl
@[simp] theorem setRomBankHighBit_timer (b : Bool) : (s.setRomBankHighBit b).timer = s.timer := rfl
@[simp] theorem setRomBankHighBit_onIntEnable (b : Bool) : (s.setRomBankHighBit b).onIntEnable = s.onIntEnable := rfl
@[simp] theorem setRomBankHighBit_romBankHighBit (b : Bool) : (s.setRomBankHighBit b).romBankHighBit = b := rfl
@[simp] theorem setRomBankHighBit_link (b : Bool) : (s.setRomBankHighBit b).link = s.link := rfl
@[simp] theorem setRomBankHighBit_queue (b : Bool) : (s.setRomBankHighBit b).queue = s.queue := rfl
@[simp] theorem setRomBankHighBit_cpu (b : Bool) : (s.setRomBankHighBit b).cpu = s.cpu := rfl
@[simp] theorem setRomBankHighBit_mem (b : Bool) : (s.setRomBankHighBit b).mem = s.mem := rfl
@[simp] theorem setRomBankHighBit_busLog (b : Bool) : (s.setRomBankHighBit b).busLog = s.busLog := rfl
@[simp] theorem setRomBankHighBit_onPressed (b : Bool) : (s.setRomBankHighBit b).onPressed = s.onPressed := rfl
@[simp] theorem setRomBankHighBit_onPending (b : Bool) : (s.setRomBankHighBit b).onPending = s.onPending := rfl
@[simp] theorem setRomBankHighBit_params (b : Bool) : (s.setRomBankHighBit b).params = s.params := rfl
@[simp] theorem setRomBankHighBit_inputs (b : Bool) : (s.setRomBankHighBit b).inputs = s.inputs := rfl
@[simp] theorem setRomBankHighBit_response (b : Bool) : (s.setRomBankHighBit b).response = s.response := rfl
@[simp] theorem setRomBankHighBit_faultLog (b : Bool) : (s.setRomBankHighBit b).faultLog = s.faultLog := rfl

/-! `setLink` -/

@[simp] theorem setLink_sched (x : Link) : (s.setLink x).sched = s.sched := rfl
@[simp] theorem setLink_timer (x : Link) : (s.setLink x).timer = s.timer := rfl
@[simp] theorem setLink_onIntEnable (x : Link) : (s.setLink x).onIntEnable = s.onIntEnable := rfl
@[simp] theorem setLink_romBankHighBit (x : Link) : (s.setLink x).romBankHighBit = s.romBankHighBit := rfl
@[simp] theorem setLink_link (x : Link) : (s.setLink x).link = x := rfl
@[simp] theorem setLink_queue (x : Link) : (s.setLink x).queue = s.queue := rfl
@[simp] theorem setLink_cpu (x : Link) : (s.setLink x).cpu = s.cpu := rfl
@[simp] theorem setLink_mem (x : Link) : (s.setLink x).mem = s.mem := rfl
@[simp] theorem setLink_busLog (x : Link) : (s.setLink x).busLog = s.busLog := rfl
@[simp] theorem setLink_onPressed (x : Link) : (s.setLink x).onPressed = s.onPressed := rfl
@[simp] theorem setLink_onPending (x : Link) : (s.setLink x).onPending = s.onPending := rfl
@[simp] theorem setLink_params (x : Link) : (s.setLink x).params = s.params := rfl
@[simp] theorem setLink_inputs (x : Link) : (s.setLink x).inputs = s.inputs := rfl
@[simp] theorem setLink_response (x : Link) : (s.setLink x).response = s.response := rfl
@[simp] theorem setLink_faultLog (x : Link) : (s.setLink x).faultLog = s.faultLog := rfl

/-! `setQueue` -/

@[simp] theorem setQueue_sched (q : List Byte) : (s.setQueue q).sched = s.sched := rfl
@[simp] theorem setQueue_timer (q : List Byte) : (s.setQueue q).timer = s.timer := rfl
@[simp] theorem setQueue_onIntEnable (q : List Byte) : (s.setQueue q).onIntEnable = s.onIntEnable := rfl
@[simp] theorem setQueue_romBankHighBit (q : List Byte) : (s.setQueue q).romBankHighBit = s.romBankHighBit := rfl
@[simp] theorem setQueue_link (q : List Byte) : (s.setQueue q).link = s.link := rfl
@[simp] theorem setQueue_queue (q : List Byte) : (s.setQueue q).queue = q := rfl
@[simp] theorem setQueue_cpu (q : List Byte) : (s.setQueue q).cpu = s.cpu := rfl
@[simp] theorem setQueue_mem (q : List Byte) : (s.setQueue q).mem = s.mem := rfl
@[simp] theorem setQueue_busLog (q : List Byte) : (s.setQueue q).busLog = s.busLog := rfl
@[simp] theorem setQueue_onPressed (q : List Byte) : (s.setQueue q).onPressed = s.onPressed := rfl
@[simp] theorem setQueue_onPending (q : List Byte) : (s.setQueue q).onPending = s.onPending := rfl
@[simp] theorem setQueue_params (q : List Byte) : (s.setQueue q).params = s.params := rfl
@[simp] theorem setQueue_inputs (q : List Byte) : (s.setQueue q).inputs = s.inputs := rfl
@[simp] theorem setQueue_response (q : List Byte) : (s.setQueue q).response = s.response := rfl
@[simp] theorem setQueue_faultLog (q : List Byte) : (s.setQueue q).faultLog = s.faultLog := rfl

/-! `setCpu` -/

@[simp] theorem setCpu_sched (x : CpuRegs) : (s.setCpu x).sched = s.sched := rfl
@[simp] theorem setCpu_timer (x : CpuRegs) : (s.setCpu x).timer = s.timer := rfl
@[simp] theorem setCpu_onIntEnable (x : CpuRegs) : (s.setCpu x).onIntEnable = s.onIntEnable := rfl
@[simp] theorem setCpu_romBankHighBit (x : CpuRegs) : (s.setCpu x).romBankHighBit = s.romBankHighBit := rfl
@[simp] theorem setCpu_link (x : CpuRegs) : (s.setCpu x).link = s.link := rfl
@[simp] theorem setCpu_queue (x : CpuRegs) : (s.setCpu x).queue = s.queue := rfl
@[simp] theorem setCpu_cpu (x : CpuRegs) : (s.setCpu x).cpu = x := rfl
@[simp] theorem setCpu_mem (x : CpuRegs) : (s.setCpu x).mem = s.mem := rfl
@[simp] theorem setCpu_busLog (x : CpuRegs) : (s.setCpu x).busLog = s.busLog := rfl
@[simp] theorem setCpu_onPressed (x : CpuRegs) : (s.setCpu x).onPressed = s.onPressed := rfl
@[simp] theorem setCpu_onPending (x : CpuRegs) : (s.setCpu x).onPending = s.onPending := rfl
@[simp] theorem setCpu_params (x : CpuRegs) : (s.setCpu x).params = s.params := rfl
@[simp] theorem setCpu_inputs (x : CpuRegs) : (s.setCpu x).inputs = s.inputs := rfl
@[simp] theorem setCpu_response (x : CpuRegs) : (s.setCpu x).response = s.response := rfl
@[simp] theorem setCpu_faultLog (x : CpuRegs) : (s.setCpu x).faultLog = s.faultLog := rfl

/-! `setMem` -/

@[simp] theorem setMem_sched (m : Memory) : (s.setMem m).sched = s.sched := rfl
@[simp] theorem setMem_timer (m : Memory) : (s.setMem m).timer = s.timer := rfl
@[simp] theorem setMem_onIntEnable (m : Memory) : (s.setMem m).onIntEnable = s.onIntEnable := rfl
@[simp] theorem setMem_romBankHighBit (m : Memory) : (s.setMem m).romBankHighBit = s.romBankHighBit := rfl
@[simp] theorem setMem_link (m : Memory) : (s.setMem m).link = s.link := rfl
@[simp] theorem setMem_queue (m : Memory) : (s.setMem m).queue = s.queue := rfl
@[simp] theorem setMem_cpu (m : Memory) : (s.setMem m).cpu = s.cpu := rfl
@[simp] theorem setMem_mem (m : Memory) : (s.setMem m).mem = m := rfl
@[simp] theorem setMem_busLog (m : Memory) : (s.setMem m).busLog = s.busLog := rfl
@[simp] theorem setMem_onPressed (m : Memory) : (s.setMem m).onPressed = s.onPressed := rfl
@[simp] theorem setMem_onPending (m : Memory) : (s.setMem m).onPending = s.onPending := rfl
@[simp] theorem setMem_params (m : Memory) : (s.setMem m).params = s.params := rfl
@[simp] theorem setMem_inputs (m : Memory) : (s.setMem m).inputs = s.inputs := rfl
@[simp] theorem setMem_response (m : Memory) : (s.setMem m).response = s.response := rfl
@[simp] theorem setMem_faultLog (m : Memory) : (s.setMem m).faultLog = s.faultLog := rfl

/-! `logAccess` -/

@[simp] theorem logAccess_sched (a : MemAccess) : (s.logAccess a).sched = s.sched := rfl
@[simp] theorem logAccess_timer (a : MemAccess) : (s.logAccess a).timer = s.timer := rfl
@[simp] theorem logAccess_onIntEnable (a : MemAccess) : (s.logAccess a).onIntEnable = s.onIntEnable := rfl
@[simp] theorem logAccess_romBankHighBit (a : MemAccess) : (s.logAccess a).romBankHighBit = s.romBankHighBit := rfl
@[simp] theorem logAccess_link (a : MemAccess) : (s.logAccess a).link = s.link := rfl
@[simp] theorem logAccess_queue (a : MemAccess) : (s.logAccess a).queue = s.queue := rfl
@[simp] theorem logAccess_cpu (a : MemAccess) : (s.logAccess a).cpu = s.cpu := rfl
@[simp] theorem logAccess_mem (a : MemAccess) : (s.logAccess a).mem = s.mem := rfl
@[simp] theorem logAccess_busLog (a : MemAccess) : (s.logAccess a).busLog = s.busLog ++ [a] := rfl
@[simp] theorem logAccess_onPressed (a : MemAccess) : (s.logAccess a).onPressed = s.onPressed := rfl
@[simp] theorem logAccess_onPending (a : MemAccess) : (s.logAccess a).onPending = s.onPending := rfl
@[simp] theorem logAccess_params (a : MemAccess) : (s.logAccess a).params = s.params := rfl
@[simp] theorem logAccess_inputs (a : MemAccess) : (s.logAccess a).inputs = s.inputs := rfl
@[simp] theorem logAccess_response (a : MemAccess) : (s.logAccess a).response = s.response := rfl
@[simp] theorem logAccess_faultLog (a : MemAccess) : (s.logAccess a).faultLog = s.faultLog := rfl

/-! `setOnKey` -/

@[simp] theorem setOnKey_sched (p q : Bool) : (s.setOnKey p q).sched = s.sched := rfl
@[simp] theorem setOnKey_timer (p q : Bool) : (s.setOnKey p q).timer = s.timer := rfl
@[simp] theorem setOnKey_onIntEnable (p q : Bool) : (s.setOnKey p q).onIntEnable = s.onIntEnable := rfl
@[simp] theorem setOnKey_romBankHighBit (p q : Bool) : (s.setOnKey p q).romBankHighBit = s.romBankHighBit := rfl
@[simp] theorem setOnKey_link (p q : Bool) : (s.setOnKey p q).link = s.link := rfl
@[simp] theorem setOnKey_queue (p q : Bool) : (s.setOnKey p q).queue = s.queue := rfl
@[simp] theorem setOnKey_cpu (p q : Bool) : (s.setOnKey p q).cpu = s.cpu := rfl
@[simp] theorem setOnKey_mem (p q : Bool) : (s.setOnKey p q).mem = s.mem := rfl
@[simp] theorem setOnKey_busLog (p q : Bool) : (s.setOnKey p q).busLog = s.busLog := rfl
@[simp] theorem setOnKey_onPressed (p q : Bool) : (s.setOnKey p q).onPressed = p := rfl
@[simp] theorem setOnKey_onPending (p q : Bool) : (s.setOnKey p q).onPending = q := rfl
@[simp] theorem setOnKey_params (p q : Bool) : (s.setOnKey p q).params = s.params := rfl
@[simp] theorem setOnKey_inputs (p q : Bool) : (s.setOnKey p q).inputs = s.inputs := rfl
@[simp] theorem setOnKey_response (p q : Bool) : (s.setOnKey p q).response = s.response := rfl
@[simp] theorem setOnKey_faultLog (p q : Bool) : (s.setOnKey p q).faultLog = s.faultLog := rfl

/-! `setInputs` -/

@[simp] theorem setInputs_sched (l : List Input) : (s.setInputs l).sched = s.sched := rfl
@[simp] theorem setInputs_timer (l : List Input) : (s.setInputs l).timer = s.timer := rfl
@[simp] theorem setInputs_onIntEnable (l : List Input) : (s.setInputs l).onIntEnable = s.onIntEnable := rfl
@[simp] theorem setInputs_romBankHighBit (l : List Input) : (s.setInputs l).romBankHighBit = s.romBankHighBit := rfl
@[simp] theorem setInputs_link (l : List Input) : (s.setInputs l).link = s.link := rfl
@[simp] theorem setInputs_queue (l : List Input) : (s.setInputs l).queue = s.queue := rfl
@[simp] theorem setInputs_cpu (l : List Input) : (s.setInputs l).cpu = s.cpu := rfl
@[simp] theorem setInputs_mem (l : List Input) : (s.setInputs l).mem = s.mem := rfl
@[simp] theorem setInputs_busLog (l : List Input) : (s.setInputs l).busLog = s.busLog := rfl
@[simp] theorem setInputs_onPressed (l : List Input) : (s.setInputs l).onPressed = s.onPressed := rfl
@[simp] theorem setInputs_onPending (l : List Input) : (s.setInputs l).onPending = s.onPending := rfl
@[simp] theorem setInputs_params (l : List Input) : (s.setInputs l).params = s.params := rfl
@[simp] theorem setInputs_inputs (l : List Input) : (s.setInputs l).inputs = l := rfl
@[simp] theorem setInputs_response (l : List Input) : (s.setInputs l).response = s.response := rfl
@[simp] theorem setInputs_faultLog (l : List Input) : (s.setInputs l).faultLog = s.faultLog := rfl

/-! `respond` -/

@[simp] theorem respond_sched (r : Response) : (s.respond r).sched = s.sched := rfl
@[simp] theorem respond_timer (r : Response) : (s.respond r).timer = s.timer := rfl
@[simp] theorem respond_onIntEnable (r : Response) : (s.respond r).onIntEnable = s.onIntEnable := rfl
@[simp] theorem respond_romBankHighBit (r : Response) : (s.respond r).romBankHighBit = s.romBankHighBit := rfl
@[simp] theorem respond_link (r : Response) : (s.respond r).link = s.link := rfl
@[simp] theorem respond_queue (r : Response) : (s.respond r).queue = s.queue := rfl
@[simp] theorem respond_cpu (r : Response) : (s.respond r).cpu = s.cpu := rfl
@[simp] theorem respond_mem (r : Response) : (s.respond r).mem = s.mem := rfl
@[simp] theorem respond_busLog (r : Response) : (s.respond r).busLog = s.busLog := rfl
@[simp] theorem respond_onPressed (r : Response) : (s.respond r).onPressed = s.onPressed := rfl
@[simp] theorem respond_onPending (r : Response) : (s.respond r).onPending = s.onPending := rfl
@[simp] theorem respond_params (r : Response) : (s.respond r).params = s.params := rfl
@[simp] theorem respond_inputs (r : Response) : (s.respond r).inputs = s.inputs := rfl
@[simp] theorem respond_response (r : Response) : (s.respond r).response = r := rfl
@[simp] theorem respond_faultLog (r : Response) : (s.respond r).faultLog = s.faultLog := rfl

/-! `raise` -/

@[simp] theorem raise_sched (f : FaultCode) : (s.raise f).sched = s.sched := rfl
@[simp] theorem raise_timer (f : FaultCode) : (s.raise f).timer = s.timer := rfl
@[simp] theorem raise_onIntEnable (f : FaultCode) : (s.raise f).onIntEnable = s.onIntEnable := rfl
@[simp] theorem raise_romBankHighBit (f : FaultCode) : (s.raise f).romBankHighBit = s.romBankHighBit := rfl
@[simp] theorem raise_link (f : FaultCode) : (s.raise f).link = s.link := rfl
@[simp] theorem raise_queue (f : FaultCode) : (s.raise f).queue = s.queue := rfl
@[simp] theorem raise_cpu (f : FaultCode) : (s.raise f).cpu = s.cpu := rfl
@[simp] theorem raise_mem (f : FaultCode) : (s.raise f).mem = s.mem := rfl
@[simp] theorem raise_busLog (f : FaultCode) : (s.raise f).busLog = s.busLog := rfl
@[simp] theorem raise_onPressed (f : FaultCode) : (s.raise f).onPressed = s.onPressed := rfl
@[simp] theorem raise_onPending (f : FaultCode) : (s.raise f).onPending = s.onPending := rfl
@[simp] theorem raise_params (f : FaultCode) : (s.raise f).params = s.params := rfl
@[simp] theorem raise_inputs (f : FaultCode) : (s.raise f).inputs = s.inputs := rfl
@[simp] theorem raise_response (f : FaultCode) : (s.raise f).response = .fault f := rfl
@[simp] theorem raise_faultLog (f : FaultCode) : (s.raise f).faultLog = s.faultLog ++ [f] := rfl

end Sys2Proof.Machine.State
end

