-- ==== Sys2Proof/Laws/Memory.lean ====
section
/-! SUPPORT. CPU memory: a read after a write, and the canonical form, which every memory operation keeps. -/

namespace Sys2Proof.Machine.Memory

/-- A byte written is the byte read back, and every other address keeps what it had. -/
theorem read?_write (m : Memory) (k j : Nat) (b : Byte) :
    (m.write k b).read? j = if j = k then some b else m.read? j := by
  induction m with
  | nil => simp [write, read?]
  | cons c m ih =>
    obtain ⟨a, c⟩ := c
    unfold write
    split
    · simp [read?]
    · split
      · subst k; simp only [read?]; split <;> rfl
      · simp only [read?, ih]
        split
        · subst j; rw [if_neg (by omega)]
        · rfl

theorem risingAbove_write (m : Memory) (k : Nat) (b : Byte) :
    ∀ lo : Option Nat, (∀ l, lo = some l → l < k) → risingAbove lo m = true →
      risingAbove lo (m.write k b) = true := by
  induction m with
  | nil => intro lo h _; cases lo <;> simp_all [write, risingAbove]
  | cons c m ih =>
    obtain ⟨a, c⟩ := c
    intro lo h hm
    simp only [risingAbove, Bool.and_eq_true] at hm
    obtain ⟨h1, h2⟩ := hm
    unfold write
    split
    · cases lo <;> simp_all [risingAbove]
    · split
      · subst k; cases lo <;> simp_all [risingAbove]
      · simp only [risingAbove, Bool.and_eq_true]
        exact ⟨h1, ih (some a) (by intro l hl; cases hl; omega) h2⟩

theorem all_write (m : Memory) (k : Nat) (b : Byte) (P : Host.Cell → Bool) (h : m.all P = true) (hk : P (k, b) = true) :
    (m.write k b).all P = true := by
  induction m with
  | nil => simp [write, hk]
  | cons c m ih =>
    obtain ⟨a, c⟩ := c
    simp only [List.all_cons, Bool.and_eq_true] at h
    unfold write
    split
    · simp_all
    · split <;> simp_all

/-- A write at a 16-bit address keeps the canonical form. -/
theorem wf_write (m : Memory) (k : Nat) (b : Byte) (hk : k < 65536) (h : m.wf = true) : (m.write k b).wf = true := by
  simp only [wf, Bool.and_eq_true] at *
  exact ⟨risingAbove_write m k b none (by simp) h.1, all_write m k b _ h.2 (by simpa using hk)⟩

theorem wf_reset : State.reset.mem.wf = true := rfl

end Sys2Proof.Machine.Memory

namespace Sys2Proof.Machine.State

/-- A memory write keeps the canonical form, kept or discarded. -/
theorem memWrite_wf (s : State) (a : Addr) (b : Byte) (h : s.mem.wf = true) : (s.memWrite a b).mem.wf = true := by
  unfold memWrite
  split
  · exact Memory.wf_write _ _ _ a.isLt h
  · exact h

/-- The byte at every address after a memory write. -/
theorem memWrite_memByte (s : State) (a x : Addr) (b : Byte) :
    (s.memWrite a b).memByte x = if x = a ∧ s.params.keepsWrite a = true then b else s.memByte x := by
  unfold memWrite
  by_cases hk : s.params.keepsWrite a = true
  · by_cases hx : x = a
    · simp [hk, hx, memByte, Memory.read?_write]
    · have : x.toNat ≠ a.toNat := fun h => hx (BitVec.eq_of_toNat_eq h)
      simp [hk, hx, memByte, Memory.read?_write, this]
  · simp [hk, memByte]

end Sys2Proof.Machine.State
end

