-- ==== Sys2Proof/Laws/Ops.lean ====
section
/-! SUPPORT. One lemma per shared operation, saying once everything it can do: the event table, the queue, the end of a
command, and the delivery of an interrupt. -/

namespace Sys2Proof.Machine

/-! ## The end of a command -/

/-- A command always answers a next state: the body's with its answer, or the starting state with the fault raised. -/
theorem finish_eq_next (s : State) (body : Except FaultCode (State × Response)) (t : State) :
    finish s body = .next t ↔
      (∃ u r, body = .ok (u, r) ∧ t = u.respond r) ∨ (∃ f, body = .error f ∧ t = s.raise f) := by
  unfold finish
  cases body with
  | error f => simp [eq_comm]
  | ok x => obtain ⟨u, r⟩ := x; simp [eq_comm, and_assoc]

@[simp] theorem finish_ok (s t : State) (r : Response) : finish s (.ok (t, r)) = .next (t.respond r) := rfl
@[simp] theorem finish_error (s : State) (f : FaultCode) : finish s (.error f) = .next (s.raise f) := rfl

/-! ## The event table -/

namespace Scheduler

variable (x : Scheduler) (id e : EventId) (time : Cycles)

@[simp] theorem recompute_eventTime : x.recompute.eventTime e = x.eventTime e := by cases e <;> rfl

theorem setSlot_eventTime : (x.setSlot id time).eventTime e = if e = id then time else x.eventTime e := by
  cases id <;> cases e <;> rfl

/-- A slot write through `arm` sets that slot and no other. -/
theorem arm_eventTime : (x.arm id time).eventTime e = if e = id then time else x.eventTime e := by
  simp [arm, setSlot_eventTime]

@[simp] theorem arm_timer_timer : (x.arm .timer time).timer = time := rfl
@[simp] theorem arm_timer_interrupt : (x.arm .timer time).interrupt = x.interrupt := rfl
@[simp] theorem arm_timer_endFrame : (x.arm .timer time).endFrame = x.endFrame := rfl
@[simp] theorem arm_interrupt_timer : (x.arm .interrupt time).timer = x.timer := rfl
@[simp] theorem arm_interrupt_interrupt : (x.arm .interrupt time).interrupt = time := rfl
@[simp] theorem arm_interrupt_endFrame : (x.arm .interrupt time).endFrame = x.endFrame := rfl
@[simp] theorem arm_endFrame_timer : (x.arm .endFrame time).timer = x.timer := rfl
@[simp] theorem arm_endFrame_interrupt : (x.arm .endFrame time).interrupt = x.interrupt := rfl
@[simp] theorem arm_endFrame_endFrame : (x.arm .endFrame time).endFrame = time := rfl

end Scheduler

/-! ## The byte queue -/

/-- A queue is full exactly when its length is its depth; an unbounded one never is. -/
theorem queueFull_eq_true_iff (depth : Option Nat) (q : List Byte) : queueFull depth q = true ↔ depth = some q.length := by
  cases depth with
  | none => simp [queueFull]
  | some d => exact ⟨fun h => congrArg some (beq_iff_eq.mp h).symm, fun h => beq_iff_eq.mpr (Option.some.inj h).symm⟩

theorem queueFull_eq_false_iff (depth : Option Nat) (q : List Byte) : queueFull depth q = false ↔ depth ≠ some q.length := by
  rw [← Bool.not_eq_true, queueFull_eq_true_iff]

theorem enqueue_ok_iff (depth : Option Nat) (q r : List Byte) (b : Byte) :
    enqueue depth q b = .ok r ↔ queueFull depth q = false ∧ q ++ [b] = r := by
  unfold enqueue; split <;> simp_all

theorem enqueue_error_iff (depth : Option Nat) (q : List Byte) (b : Byte) (f : FaultCode) :
    enqueue depth q b = .error f ↔ queueFull depth q = true ∧ .queueOverflow = f := by
  unfold enqueue; split <;> simp_all

theorem dequeue_ok_iff (q rest : List Byte) (b : Byte) : dequeue q = .ok (b, rest) ↔ q = b :: rest := by
  cases q <;> simp [dequeue]

theorem dequeue_error_iff (q : List Byte) (f : FaultCode) : dequeue q = .error f ↔ q = [] ∧ f = .queueUnderflow := by
  cases q <;> simp [dequeue, eq_comm]

/-! ## Memory accesses and pushes touch only memory, the record and `sp` -/

namespace State

variable (s : State) (a : Addr) (b : Byte)

/-- A memory write changes memory and the record of accesses, nothing else. -/
theorem memWrite_eq : s.memWrite a b = { s with mem := (s.memWrite a b).mem, busLog := s.busLog ++ [.write a b] } := by
  unfold memWrite; split <;> rfl

@[simp] theorem memWrite_cpu : (s.memWrite a b).cpu = s.cpu := by rw [memWrite_eq]
@[simp] theorem memWrite_sched : (s.memWrite a b).sched = s.sched := by rw [memWrite_eq]
@[simp] theorem memWrite_params : (s.memWrite a b).params = s.params := by rw [memWrite_eq]
@[simp] theorem memWrite_busLog : (s.memWrite a b).busLog = s.busLog ++ [.write a b] := by rw [memWrite_eq]

@[simp] theorem setCpu_memByte (c : CpuRegs) : (s.setCpu c).memByte a = s.memByte a := rfl
@[simp] theorem setSched_memByte (x : Scheduler) : (s.setSched x).memByte a = s.memByte a := rfl
@[simp] theorem setTimer_memByte (x : TimerUnit) : (s.setTimer x).memByte a = s.memByte a := rfl
@[simp] theorem logAccess_memByte (x : MemAccess) : (s.logAccess x).memByte a = s.memByte a := rfl
@[simp] theorem respond_memByte (r : Response) : (s.respond r).memByte a = s.memByte a := rfl
@[simp] theorem raise_memByte (f : FaultCode) : (s.raise f).memByte a = s.memByte a := rfl

/-- A push changes `sp`, memory and the record of accesses, nothing else. -/
theorem push_eq : s.push b =
    { s with cpu := { s.cpu with sp := s.cpu.sp - 1 }, mem := (s.push b).mem,
             busLog := s.busLog ++ [.write (s.cpu.sp - 1) b] } := by
  unfold push; rw [memWrite_eq]; rfl

@[simp] theorem push_cpu : (s.push b).cpu = { s.cpu with sp := s.cpu.sp - 1 } := by rw [push_eq]
@[simp] theorem push_sched : (s.push b).sched = s.sched := by rw [push_eq]
@[simp] theorem push_params : (s.push b).params = s.params := by rw [push_eq]
@[simp] theorem push_busLog : (s.push b).busLog = s.busLog ++ [.write (s.cpu.sp - 1) b] := by rw [push_eq]

theorem push_wf (h : s.mem.wf = true) : (s.push b).mem.wf = true := memWrite_wf _ _ _ h

/-- The byte at every address after a push. -/
theorem push_memByte (x : Addr) : (s.push b).memByte x =
    if x = s.cpu.sp - 1 ∧ s.params.keepsWrite (s.cpu.sp - 1) = true then b else s.memByte x := by
  unfold push; rw [memWrite_memByte]; rfl

/-- The two pushes of the program counter, in one. -/
theorem pushPc_eq : s.pushPc =
    { s with cpu := { s.cpu with sp := s.cpu.sp - 2 }, mem := s.pushPc.mem,
             busLog := s.busLog ++ [.write (s.cpu.sp - 1) (s.cpu.pc.extractLsb' 8 8),
               .write (s.cpu.sp - 2) (s.cpu.pc.extractLsb' 0 8)] } := by
  have h : s.cpu.sp - 1#16 - 1#16 = s.cpu.sp - 2#16 := by rw [BitVec.sub_sub]; rfl
  unfold pushPc
  rw [push_eq (s.push _), push_eq s]
  simp [h]

theorem pushPc_wf (h : s.mem.wf = true) : s.pushPc.mem.wf = true := push_wf _ _ (push_wf _ _ h)

end State

/-! ## Delivery of an interrupt -/

namespace State

variable (s : State)

/-- What each mode changes: the CPU's registers, memory and the record of accesses. -/
theorem byMode_eq : s.byMode.1 =
    { s with cpu := s.byMode.1.cpu, mem := s.byMode.1.mem, busLog := s.byMode.1.busLog } := by
  unfold byMode
  split
  · rfl
  · unfold mode1; rw [pushPc_eq]; rfl
  · unfold mode2; rw [pushPc_eq]; rfl

/-- Of the CPU's registers a mode writes `pc` and `sp` alone. -/
theorem byMode_cpu : s.byMode.1.cpu = { s.cpu with pc := s.byMode.1.cpu.pc, sp := s.byMode.1.cpu.sp } := by
  unfold byMode
  split
  · rfl
  · unfold mode1; rw [pushPc_eq]; rfl
  · unfold mode2; rw [pushPc_eq]; rfl

theorem byMode_wf (h : s.mem.wf = true) : s.byMode.1.mem.wf = true := by
  unfold byMode
  split
  · exact h
  · exact pushPc_wf _ h
  · exact pushPc_wf _ h

/-- A delivery either is refused in mode 3 or answers the modes' state with `Afterward()` run. -/
theorem deliverInterrupt_eq : s.deliverInterrupt =
    if s.cpu.im = 3#2 then .error .badInterruptMode else .ok (s.byMode.1.afterward, s.byMode.2) := by
  simp [deliverInterrupt, badMode]

end State

end Sys2Proof.Machine
end

