-- ==== Sys2Proof/Laws/Transport.lean ====
section
/-! SUPPORT. What one `Update()` can do: it never touches `localOutput`, it touches nothing outside the transport and the
queue, and it keeps the transport's invariants. -/

namespace Sys2Proof.Machine

/-- An `Update()` that raises nothing changes the transport and the queue, nothing else. -/
theorem update_ok_iff (s t : State) (c : Option Action) : s.update = .ok (t, c) ↔
    ∃ r, updateLink s.params.queueDepth s.link s.queue = .ok r ∧ t = (s.setLink r.link).setQueue r.queue ∧
      c = r.completed := by
  unfold State.update
  cases updateLink s.params.queueDepth s.link s.queue with
  | error f => simp
  | ok r => simp [eq_comm]

theorem update_error_iff (s : State) (f : FaultCode) : s.update = .error f ↔
    updateLink s.params.queueDepth s.link s.queue = .error f := by
  unfold State.update
  cases updateLink s.params.queueDepth s.link s.queue <;> simp

/-! ## The rows of R120, one by one -/

theorem prepReceive_ok_iff (l : Link) (q : List Byte) (r : LinkResult) : prepReceive l q = .ok r ↔
    ∃ b rest, q = b :: rest ∧
      r = ⟨{ l with acc := b, bitsLeft := 8, stepsLeft := 5, linkStatus := .receive }, rest, none⟩ := by
  unfold prepReceive
  cases q with
  | nil => simp [dequeue]
  | cons b rest => simp [dequeue, eq_comm]

/-- Step 1 of a Send, by what it answers. -/
theorem sendStep1_ok (depth : Option Nat) (l : Link) (q : List Byte) (r : LinkResult)
    (h : sendStep1 depth l q = .ok r) :
    (l.bitsLeft - 1 ≠ 0 ∧ r = ⟨{ l with bitsLeft := l.bitsLeft - 1, stepsLeft := 5 }, q, none⟩) ∨
    (l.bitsLeft - 1 = 0 ∧ queueFull depth q = false ∧ l.bytesLeft - 1 > 0 ∧
      r = ⟨{ l with bitsLeft := l.bitsLeft - 1, bytesLeft := l.bytesLeft - 1, linkStatus := .prepSend },
        q ++ [l.acc], none⟩) ∨
    (l.bitsLeft - 1 = 0 ∧ queueFull depth q = false ∧ ¬ l.bytesLeft - 1 > 0 ∧
      r = ⟨{ l with bitsLeft := l.bitsLeft - 1, bytesLeft := l.bytesLeft - 1, linkStatus := .inactive, action := .doNothing },
        q ++ [l.acc], some l.action⟩) := by
  unfold sendStep1 at h
  simp only at h
  split at h
  · cases h; exact .inl ⟨‹_›, rfl⟩
  · rename_i h1
    have h1 : l.bitsLeft - 1 = 0 := not_not.1 h1
    split at h
    · cases h
    · rename_i q' hq
      obtain ⟨h2, rfl⟩ := (enqueue_ok_iff _ _ _ _).1 hq
      split at h
      · cases h; exact .inr (.inl ⟨h1, h2, ‹_›, rfl⟩)
      · cases h; exact .inr (.inr ⟨h1, h2, ‹_›, rfl⟩)

/-- Step 1 of a Receive, by what it answers. -/
theorem receiveStep1_cases (l : Link) (q : List Byte) :
    (l.bitsLeft - 1 ≠ 0 ∧ receiveStep1 l q = ({ l with bitsLeft := l.bitsLeft - 1, stepsLeft := 5 }, none)) ∨
    (l.bitsLeft - 1 = 0 ∧ q ≠ [] ∧
      receiveStep1 l q = ({ l with bitsLeft := l.bitsLeft - 1, linkStatus := .prepReceive }, none)) ∨
    (l.bitsLeft - 1 = 0 ∧ q = [] ∧
      receiveStep1 l q =
        ({ l with bitsLeft := l.bitsLeft - 1, linkStatus := .inactive, action := .doNothing }, some l.action)) := by
  unfold receiveStep1
  by_cases h1 : l.bitsLeft - 1 = 0
  · cases q <;> simp_all [completeTransfer]
  · left; simp_all

/-- Everything an `Update()` can do to the transport, row by row (R120). -/
inductive Row (depth : Option Nat) (l : Link) (q : List Byte) : LinkResult → Prop where
  | same : Row depth l q ⟨l, q, none⟩
  | prepReceive (b : Byte) (rest : List Byte) : l.linkStatus = .prepReceive → q = b :: rest →
      Row depth l q ⟨{ l with acc := b, bitsLeft := 8, stepsLeft := 5, linkStatus := .receive }, rest, none⟩
  | prepSend : l.linkStatus = .prepSend → l.lineState = 0b11#2 →
      Row depth l q ⟨{ l with linkStatus := .send, bitsLeft := 8, stepsLeft := 5, acc := 0 }, q, none⟩
  | receive5 : l.linkStatus = .receive → l.stepsLeft = 5 → Row depth l q ⟨receiveStep5 l, q, none⟩
  | receive4 : l.linkStatus = .receive → l.stepsLeft = 4 → l.localOutput = 0b00#2 →
      Row depth l q ⟨{ l with stepsLeft := 3 }, q, none⟩
  | receive3 : l.linkStatus = .receive → l.stepsLeft = 3 →
      Row depth l q ⟨{ l with xmitOutput := 0b00#2, stepsLeft := 2 }, q, none⟩
  | receive2 : l.linkStatus = .receive → l.stepsLeft = 2 → l.lineState = 0b00#2 →
      Row depth l q ⟨{ l with stepsLeft := 1 }, q, none⟩
  | receive1Bit : l.linkStatus = .receive → l.stepsLeft = 1 → l.bitsLeft - 1 ≠ 0 →
      Row depth l q ⟨{ l with bitsLeft := l.bitsLeft - 1, stepsLeft := 5 }, q, none⟩
  | receive1Byte : l.linkStatus = .receive → l.stepsLeft = 1 → l.bitsLeft - 1 = 0 → q ≠ [] →
      Row depth l q ⟨{ l with bitsLeft := l.bitsLeft - 1, linkStatus := .prepReceive }, q, none⟩
  | receive1Done : l.linkStatus = .receive → l.stepsLeft = 1 → l.bitsLeft - 1 = 0 → q = [] →
      Row depth l q
        ⟨{ l with bitsLeft := l.bitsLeft - 1, linkStatus := .inactive, action := .doNothing }, q, some l.action⟩
  | send5 : l.linkStatus = .send → l.stepsLeft = 5 → l.lineState ≠ 0b11#2 →
      Row depth l q ⟨{ l with acc := sampleInto l, stepsLeft := 4 }, q, none⟩
  | send4 : l.linkStatus = .send → l.stepsLeft = 4 →
      Row depth l q ⟨{ l with xmitOutput := l.localOutput ^^^ 0b11#2, stepsLeft := 3 }, q, none⟩
  | send3 : l.linkStatus = .send → l.stepsLeft = 3 → l.localOutput = 0b00#2 →
      Row depth l q ⟨{ l with stepsLeft := 2 }, q, none⟩
  | send2 : l.linkStatus = .send → l.stepsLeft = 2 →
      Row depth l q ⟨{ l with xmitOutput := 0b00#2, stepsLeft := 1 }, q, none⟩
  | send1Bit : l.linkStatus = .send → l.stepsLeft = 1 → l.bitsLeft - 1 ≠ 0 →
      Row depth l q ⟨{ l with bitsLeft := l.bitsLeft - 1, stepsLeft := 5 }, q, none⟩
  | send1Byte : l.linkStatus = .send → l.stepsLeft = 1 → l.bitsLeft - 1 = 0 → queueFull depth q = false →
      l.bytesLeft - 1 > 0 →
      Row depth l q
        ⟨{ l with bitsLeft := l.bitsLeft - 1, bytesLeft := l.bytesLeft - 1, linkStatus := .prepSend },
          q ++ [l.acc], none⟩
  | send1Done : l.linkStatus = .send → l.stepsLeft = 1 → l.bitsLeft - 1 = 0 → queueFull depth q = false →
      ¬ l.bytesLeft - 1 > 0 →
      Row depth l q
        ⟨{ l with bitsLeft := l.bitsLeft - 1, bytesLeft := l.bytesLeft - 1, linkStatus := .inactive,
                  action := .doNothing },
          q ++ [l.acc], some l.action⟩

/-- An `Update()` that raises nothing is one of the rows. -/
theorem updateLink_row {depth : Option Nat} {l : Link} {q : List Byte} {r : LinkResult}
    (h : updateLink depth l q = .ok r) : Row depth l q r := by
  unfold updateLink at h
  split at h
  · cases h; exact .same
  · obtain ⟨b, rest, rfl, rfl⟩ := (prepReceive_ok_iff _ _ _).1 h
    exact .prepReceive b rest ‹_› rfl
  · cases h
    unfold Machine.prepSend
    split
    · exact .prepSend ‹_› ‹_›
    · exact .same
  · cases h
    unfold receiveStep
    split
    · exact .receive5 ‹_› ‹_›
    · unfold receiveStep4
      split
      · exact .receive4 ‹_› ‹_› ‹_›
      · exact .same
    · exact .receive3 ‹_› ‹_›
    · unfold receiveStep2
      split
      · exact .receive2 ‹_› ‹_› ‹_›
      · exact .same
    · obtain ⟨h1, h2⟩ | ⟨h1, h2, h3⟩ | ⟨h1, h2, h3⟩ := receiveStep1_cases l q
      · rw [h2]; exact .receive1Bit ‹_› ‹_› h1
      · rw [h3]; exact .receive1Byte ‹_› ‹_› h1 h2
      · rw [h3]; exact .receive1Done ‹_› ‹_› h1 h2
    · exact .same
  · unfold sendStep at h
    split at h
    · cases h
      unfold sendStep5
      split
      · exact .send5 ‹_› ‹_› ‹_›
      · exact .same
    · cases h; exact .send4 ‹_› ‹_›
    · cases h
      unfold sendStep3
      split
      · exact .send3 ‹_› ‹_› ‹_›
      · exact .same
    · cases h; exact .send2 ‹_› ‹_›
    · obtain ⟨h1, rfl⟩ | ⟨h1, h2, h3, rfl⟩ | ⟨h1, h2, h3, rfl⟩ := sendStep1_ok _ _ _ _ h
      · exact .send1Bit ‹_› ‹_› h1
      · exact .send1Byte ‹_› ‹_› h1 h2 h3
      · exact .send1Done ‹_› ‹_› h1 h2 h3
    · cases h; exact .same
  all_goals (cases h; exact .same)

/-- No `Update()` touches the CPU side's driver (R23). -/
theorem updateLink_localOutput {depth : Option Nat} {l : Link} {q : List Byte} {r : LinkResult}
    (h : updateLink depth l q = .ok r) : r.link.localOutput = l.localOutput := by
  cases updateLink_row h <;> rfl

end Sys2Proof.Machine
end

