-- ==== Sys2Proof/Laws/Exec.lean ====
section
/-! SUPPORT. Every command ends through `finish`, so a proof about all commands is one about what their bodies compute;
and what each body that raises nothing changes. -/

namespace Sys2Proof.Machine

/-- What each command computes before it ends. -/
def body : Instr → State → Except FaultCode (State × Response)
  | .nop, s => .ok (s, .zero)
  | .sched id time, s => .ok (s.setSched (s.sched.arm id time), .zero)
  | .disp cc, s => dispatch cc s
  | .rdp port _, s => readPort port s
  | .wrp port val cc rom, s => writePort port val cc rom s
  | .enq b, s =>
    match enqueue s.params.queueDepth s.queue b with
    | .ok q => .ok (s.setQueue q, .zero)
    | .error f => .error f
  | .deq, s =>
    match dequeue s.queue with
    | .ok (b, q) => .ok (s.setQueue q, .ok none b 0)
    | .error f => .error f
  | .clr, s => .ok (s.setQueue [], .zero)
  | .upd, s =>
    match s.update with
    | .ok (t, completed) => .ok (t, .ok completed 0 0)
    | .error f => .error f
  | .armrx act, s =>
    if s.link.linkStatus ≠ .inactive ∨ s.queue.length = 0 then .error .badArm
    else .ok (s.setLink { s.link with linkStatus := .prepReceive, action := act }, .zero)
  | .armtx act n, s =>
    if s.link.linkStatus ≠ .inactive ∨ n = 0 then .error .badArm
    else .ok (s.setLink { s.link with linkStatus := .prepSend, bytesLeft := n, action := act }, .zero)
  | .setact act, s => .ok (s.setLink { s.link with action := act }, .zero)

theorem exec_eq_finish (i : Instr) (s : State) : exec i s = finish s (body i s) := by cases i <;> rfl

/-- A command answers its body's state with the body's answer, or raises the body's fault where it started. -/
theorem exec_next_cases {i : Instr} {s t : State} (h : exec i s = .next t) :
    (∃ u r, body i s = .ok (u, r) ∧ t = u.respond r) ∨ (∃ f, body i s = .error f ∧ t = s.raise f) := by
  rw [exec_eq_finish] at h; exact (finish_eq_next _ _ _).1 h

/-! ## The Timer, Interrupt and EndFrame cases -/

/-- The three cases of a fire that raises nothing. -/
inductive Fired (s : State) : State → Cycles → Prop where
  | timer : s.sched.nextId = .timer → cascades s = false → Fired s (timerFired s) 0
  | cascade : s.sched.nextId = .timer → cascades s = true → s.cpu.im ≠ 3 →
      Fired s (timerFired s).byMode.1.afterward (timerFired s).byMode.2
  | interrupt : s.sched.nextId = .interrupt → s.cpu.im ≠ 3 → Fired s s.byMode.1.afterward s.byMode.2
  | endFrame : s.sched.nextId = .endFrame → Fired s (s.setSched (s.sched.arm .endFrame never)) 0

theorem deliverInterrupt_ok {s t : State} {c : Cycles} (h : s.deliverInterrupt = .ok (t, c)) :
    s.cpu.im ≠ 3 ∧ t = s.byMode.1.afterward ∧ c = s.byMode.2 := by
  rw [State.deliverInterrupt_eq] at h
  split at h
  · cases h
  · cases h; exact ⟨‹_›, rfl, rfl⟩

theorem fire_ok {s t : State} {c : Cycles} (h : fire s = .ok (t, c)) : Fired s t c := by
  unfold fire at h
  split at h
  · unfold fireTimer at h
    split at h
    · split at h
      · cases h
      · obtain ⟨h1, rfl, rfl⟩ := deliverInterrupt_ok h
        exact .cascade ‹_› ‹_› h1
    · cases h
      rename_i h1
      exact .timer ‹_› (Bool.eq_false_iff.2 h1)
  · obtain ⟨h1, rfl, rfl⟩ := deliverInterrupt_ok h
    exact .interrupt ‹_› h1
  · cases h; exact .endFrame ‹_›

theorem dispatch_ok {cc : Cycles} {s t : State} {r : Response} (h : dispatch cc s = .ok (t, r)) :
    s.sched.nextTime ≠ never ∧ ¬ cc < s.sched.nextTime ∧ ∃ c, Fired s t c ∧ r = .ok none 0 (cc + c) := by
  unfold dispatch at h
  split at h
  · cases h
  · split at h
    · cases h
    · split at h
      · cases h; exact ⟨‹_›, ‹_›, _, fire_ok ‹_›, rfl⟩
      · cases h

/-- A delivery changes the CPU's registers, memory, the record of accesses and the event table. -/
theorem afterDelivery_eq (s : State) : s.byMode.1.afterward =
    { s with cpu := s.byMode.1.cpu.afterDelivery, mem := s.byMode.1.mem, busLog := s.byMode.1.busLog,
             sched := s.sched.arm .interrupt never } := by
  unfold State.afterward
  rw [State.byMode_eq]
  rfl

theorem timerFired_eq (s : State) : timerFired s =
    { s with timer := { s.timer with timerPending := true, timerLastUpdate := s.sched.timer },
             sched := s.sched.arm .timer (s.sched.timer + s.timer.timerPeriod.value) } := rfl

/-- What no case of DISP changes (R111). -/
theorem fired_frame {s t : State} {c : Cycles} (h : Fired s t c) :
    t = { s with sched := t.sched, timer := t.timer, cpu := t.cpu, mem := t.mem, busLog := t.busLog } ∧
    t.timer.timerIntEnable = s.timer.timerIntEnable ∧ t.timer.timerPeriod = s.timer.timerPeriod := by
  cases h with
  | timer => exact ⟨rfl, rfl, rfl⟩
  | cascade => rw [afterDelivery_eq]; exact ⟨rfl, rfl, rfl⟩
  | interrupt => rw [afterDelivery_eq]; exact ⟨rfl, rfl, rfl⟩
  | endFrame => exact ⟨rfl, rfl, rfl⟩

/-! ## The port writes -/

/-- Re-anchoring changes the timer's anchor and, where the timer interrupt is enabled, the Timer slot. -/
theorem reanchor_eq (s : State) (cc : Cycles) : s.reanchor cc =
    { s with
      timer := { s.timer with timerLastUpdate := anchorOf cc s.timer.timerPeriod }
      sched := if s.timer.timerIntEnable then
          s.sched.arm .timer (anchorOf cc s.timer.timerPeriod + s.timer.timerPeriod.value)
        else s.sched } := by
  unfold State.reanchor
  by_cases h : s.timer.timerIntEnable = true <;> simp [h, State.setTimer, State.setSched]

theorem writeStatus_frame (val : Byte) (cc : Cycles) (s : State) : writeStatus val cc s =
    { s with onIntEnable := statusWriteOnInt val, timer := (writeStatus val cc s).timer,
             sched := (writeStatus val cc s).sched } := by
  unfold writeStatus
  simp only
  split
  · rw [reanchor_eq]; rfl
  · rfl

theorem writeIntctl_frame (val : Byte) (cc : Cycles) (s : State) : writeIntctl val cc s =
    { s with timer := (writeIntctl val cc s).timer, sched := (writeIntctl val cc s).sched } := by
  unfold writeIntctl
  rw [reanchor_eq]; rfl

/-- A Link write that raises nothing: the two fields, then an `Update()` or nothing. -/
theorem writeLink_ok {val : Byte} {rom : Bool} {s t : State} {r : Response} (h : writeLink val rom s = .ok (t, r)) :
    (t = linkWritten val s ∧ r = .zero ∧ (s.link.linkStatus = .inactive ∨ rom = false)) ∨
    (rom = true ∧ s.link.linkStatus ≠ .inactive ∧ ∃ c, (linkWritten val s).update = .ok (t, c) ∧ r = .ok c 0 0) := by
  unfold writeLink Link.active at h
  split at h
  · rename_i hc
    simp only [Bool.and_eq_true, bne_iff_ne] at hc
    split at h
    · cases h; exact .inr ⟨hc.2, hc.1, _, ‹_›, rfl⟩
    · cases h
  · rename_i hc
    cases h
    refine .inl ⟨rfl, rfl, ?_⟩
    cases rom <;> simp_all

/-! ## All commands at once -/

/-- A command that raises nothing answers without a fault, and leaves the record of faults, the parameters, the inputs
and the ON-key signals. -/
theorem body_ok_keeps {i : Instr} {s u : State} {r : Response} (h : body i s = .ok (u, r)) :
    (∃ c d τ, r = .ok c d τ) ∧ u.faultLog = s.faultLog ∧ u.params = s.params ∧ u.inputs = s.inputs ∧
    u.onPressed = s.onPressed ∧ u.onPending = s.onPending := by
  have hupd : ∀ {s t : State} {c}, s.update = .ok (t, c) → t.faultLog = s.faultLog ∧ t.params = s.params ∧
      t.inputs = s.inputs ∧ t.onPressed = s.onPressed ∧ t.onPending = s.onPending := by
    intro s t c hu
    obtain ⟨r, -, rfl, -⟩ := (update_ok_iff _ _ _).1 hu
    exact ⟨rfl, rfl, rfl, rfl, rfl⟩
  cases i with
  | disp cc =>
    obtain ⟨-, -, c, hf, rfl⟩ := dispatch_ok h
    refine ⟨⟨_, _, _, rfl⟩, ?_⟩
    rw [(fired_frame hf).1]
    exact ⟨rfl, rfl, rfl, rfl, rfl⟩
  | rdp p cc =>
    simp only [body, readPort] at h
    split at h
    · unfold readLink at h
      split at h
      · cases h; exact ⟨⟨_, _, _, rfl⟩, hupd ‹_›⟩
      · cases h
    · cases h; exact ⟨⟨_, _, _, rfl⟩, rfl, rfl, rfl, rfl, rfl⟩
    all_goals cases h
  | wrp p v cc rom =>
    simp only [body, writePort] at h
    split at h
    · obtain ⟨rfl, rfl, -⟩ | ⟨-, -, c, hu, rfl⟩ := writeLink_ok h
      · exact ⟨⟨_, _, _, rfl⟩, rfl, rfl, rfl, rfl, rfl⟩
      · have := hupd hu; exact ⟨⟨_, _, _, rfl⟩, this⟩
    · cases h; rw [writeStatus_frame]; exact ⟨⟨_, _, _, rfl⟩, rfl, rfl, rfl, rfl, rfl⟩
    · cases h; rw [writeIntctl_frame]; exact ⟨⟨_, _, _, rfl⟩, rfl, rfl, rfl, rfl, rfl⟩
    all_goals cases h
  | upd =>
    simp only [body] at h
    split at h
    · cases h; exact ⟨⟨_, _, _, rfl⟩, hupd ‹_›⟩
    · cases h
  | enq b => simp only [body] at h; split at h <;> cases h; exact ⟨⟨_, _, _, rfl⟩, rfl, rfl, rfl, rfl, rfl⟩
  | deq => simp only [body] at h; split at h <;> cases h; exact ⟨⟨_, _, _, rfl⟩, rfl, rfl, rfl, rfl, rfl⟩
  | armrx a => simp only [body] at h; split at h <;> cases h; exact ⟨⟨_, _, _, rfl⟩, rfl, rfl, rfl, rfl, rfl⟩
  | armtx a n => simp only [body] at h; split at h <;> cases h; exact ⟨⟨_, _, _, rfl⟩, rfl, rfl, rfl, rfl, rfl⟩
  | nop => cases h; exact ⟨⟨_, _, _, rfl⟩, rfl, rfl, rfl, rfl, rfl⟩
  | sched => cases h; exact ⟨⟨_, _, _, rfl⟩, rfl, rfl, rfl, rfl, rfl⟩
  | clr => cases h; exact ⟨⟨_, _, _, rfl⟩, rfl, rfl, rfl, rfl, rfl⟩
  | setact => cases h; exact ⟨⟨_, _, _, rfl⟩, rfl, rfl, rfl, rfl, rfl⟩

/-- Everything a step can be: nothing to take, a command carried out, a word refused, a change of the environment. -/
theorem step_cases {s t : State} (h : step s = .next t) :
    (s.inputs = [] ∧ t = s) ∨
    (∃ w rest i, s.inputs = .command w :: rest ∧ decode w = .ok i ∧ exec i (s.setInputs rest) = .next t) ∨
    (∃ w rest e, s.inputs = .command w :: rest ∧ decode w = .error e ∧
      t = (s.setInputs rest).raise .illegalCommand) ∨
    (∃ e rest, s.inputs = e :: rest ∧ t = applyEnvironment e (s.setInputs rest) ∧ ∀ w, e ≠ .command w) := by
  unfold step at h
  split at h
  · cases h; exact .inl ⟨‹_›, rfl⟩
  · rename_i w rest hi
    unfold commandOf at h
    cases hd : decode w with
    | ok i => rw [hd] at h; exact .inr (.inl ⟨w, rest, i, hi, hd, h⟩)
    | error e => rw [hd] at h; cases h; exact .inr (.inr (.inl ⟨w, rest, e, hi, hd, rfl⟩))
  all_goals
    cases h
    exact .inr (.inr (.inr ⟨_, _, ‹_›, rfl, by simp⟩))

end Sys2Proof.Machine
end

