-- ==== Sys2Proof/Laws/Delivery.lean ====
section
/-! SUPPORT. What the delivery of an interrupt leaves (R208), as `Delivered` has it, and what it costs (R108). -/

namespace Sys2Proof.Machine

theorem cascades_iff (s : State) : cascades s = true ↔ s.MayCascade := by simp [cascades, State.MayCascade]

/-- The four interrupt modes. -/
theorem im_cases (m : BitVec 2) : m = 0#2 ∨ m = 1#2 ∨ m = 2#2 ∨ m = 3#2 := by revert m; decide

/-- R110: bit 7 stays and the low seven bits count modulo 128. -/
theorem refreshStep_spec (r : Byte) :
    (refreshStep r).getLsbD 7 = r.getLsbD 7 ∧ (refreshStep r).extractLsb' 0 7 = r.extractLsb' 0 7 + 1 := by
  revert r; decide

namespace State

variable (s : State)

theorem byMode_mode0 (h : s.cpu.im = 0#2) : s.byMode = s.mode0 := by simp [byMode, h]
theorem byMode_mode1 (h : s.cpu.im = 1#2) : s.byMode = s.mode1 := by simp [byMode, h]
theorem byMode_mode2 (h : s.cpu.im = 2#2) : s.byMode = s.mode2 := by simp [byMode, h]

@[simp] theorem pushPc_cpu : s.pushPc.cpu = { s.cpu with sp := s.cpu.sp - 2 } := by rw [pushPc_eq]
@[simp] theorem pushPc_busLog : s.pushPc.busLog = s.busLog ++ [.write (s.cpu.sp - 1) (s.cpu.pc.extractLsb' 8 8),
    .write (s.cpu.sp - 2) (s.cpu.pc.extractLsb' 0 8)] := by rw [pushPc_eq]

/-- The byte at every address after the program counter is pushed. -/
theorem pushPc_memByte (a : Addr) : s.pushPc.memByte a =
    if a = s.cpu.sp - 2 ∧ s.params.keepsWrite a = true then s.cpu.pc.extractLsb' 0 8
    else if a = s.cpu.sp - 1 ∧ s.params.keepsWrite a = true then s.cpu.pc.extractLsb' 8 8
    else s.memByte a := by
  have h2 : s.cpu.sp - 1 - 1 = s.cpu.sp - 2 := by rw [BitVec.sub_sub]; rfl
  unfold pushPc
  rw [push_memByte, push_memByte]
  simp only [push_cpu, push_params, h2]
  by_cases h1 : a = s.cpu.sp - 2
  · subst h1
    by_cases h3 : s.cpu.sp - 2 = s.cpu.sp - 1
    · rw [← h3]
    · simp only [true_and, h3, false_and]
  · by_cases h3 : a = s.cpu.sp - 1
    · subst h3; simp only [h1, false_and, if_false]
    · simp only [h1, h3, false_and]

/-- What a delivery costs, by mode. -/
theorem byMode_cost (h : s.cpu.im ≠ 3#2) : s.byMode.2 = deliveryCost s.cpu.im := by
  obtain h1 | h1 | h1 | h1 := im_cases s.cpu.im
  · rw [byMode_mode0 _ h1, h1]; rfl
  · rw [byMode_mode1 _ h1, h1]; rfl
  · rw [byMode_mode2 _ h1, h1]; rfl
  · exact absurd h1 h

/-- The CPU's registers, the memory and the record of accesses that mode 1 leaves. -/
theorem mode1_eq : s.mode1.1 = s.pushPc.setCpu { s.cpu with pc := 0x0038#16, sp := s.cpu.sp - 2 } := by
  simp only [mode1, pushPc_cpu]; rfl

/-- The same of mode 2: the reads come after the pushes. -/
theorem mode2_eq : s.mode2.1 =
    ((s.pushPc.logAccess (.read (s.cpu.i ++ 0x00#8) (s.pushPc.memByte (s.cpu.i ++ 0x00#8)))).logAccess
      (.read (s.cpu.i ++ 0x01#8) (s.pushPc.memByte (s.cpu.i ++ 0x01#8)))).setCpu
      { s.cpu with
        pc := s.pushPc.memByte (s.cpu.i ++ 0x01#8) ++ s.pushPc.memByte (s.cpu.i ++ 0x00#8)
        sp := s.cpu.sp - 2 } := by
  unfold mode2
  simp only [memRead, logAccess_memByte, logAccess_cpu, pushPc_cpu]
  rfl

/-- `Afterward()` touches the flags, the refresh register and the event table. -/
@[simp] theorem afterward_cpu : s.afterward.cpu = s.cpu.afterDelivery := rfl
@[simp] theorem afterward_memByte (a : Addr) : s.afterward.memByte a = s.memByte a := rfl
@[simp] theorem afterward_busLog : s.afterward.busLog = s.busLog := rfl

/-- A delivery in a mode that has a meaning leaves what R208 says. -/
theorem delivered (h : s.cpu.im ≠ 3#2) : Delivered s s.byMode.1.afterward := by
  have hr := refreshStep_spec s.cpu.r
  have h7 : (refreshStep s.cpu.r)[7] = s.cpu.r[7] := hr.1
  obtain h1 | h1 | h1 | h1 := im_cases s.cpu.im
  · rw [byMode_mode0 _ h1]
    exact ⟨rfl, rfl, hr.1, hr.2, ⟨rfl, rfl⟩, fun _ => ⟨rfl, rfl, rfl, fun _ => rfl⟩, by simp [h1], by simp [h1],
      by simp [h1]⟩
  · rw [byMode_mode1 _ h1, mode1_eq]
    constructor <;> simp [h1, CpuRegs.afterDelivery, hr, h7, pushPc_memByte]
  · rw [byMode_mode2 _ h1, mode2_eq]
    constructor <;> simp [h1, CpuRegs.afterDelivery, hr, h7, pushPc_memByte]
  · exact absurd h1 h

end State

end Sys2Proof.Machine
end

