-- ==== Sys2Proof/Laws/Scheduler.lean ====
section
/-! SUPPORT. `Recompute()` leaves the cached pair the argmin of the table (R90, R12), so every slot write does. -/

namespace Sys2Proof.Machine.Scheduler

/-- R90's scan, as one decision. -/
theorem nearest_eq (x : Scheduler) : x.nearest =
    if x.interrupt < x.timer then (if x.endFrame < x.interrupt then .endFrame else .interrupt)
    else (if x.endFrame < x.timer then .endFrame else .timer) := by
  unfold nearest
  by_cases h : x.interrupt < x.timer <;> simp [eventTime, h]

theorem recompute_cacheValid (x : Scheduler) : x.recompute.CacheValid := by
  obtain ⟨a, b, c, n, m⟩ := x
  refine ⟨rfl, fun e => ?_, fun e => ?_⟩
  all_goals
    simp only [recompute_eventTime]
    simp only [recompute, nearest_eq]
    by_cases h1 : b < a
    · by_cases h2 : c < b <;> cases e <;> simp only [h1, h2, if_true, if_false, eventTime, EventId.bits] <;> bv_omega
    · by_cases h2 : c < a <;> cases e <;> simp only [h1, h2, if_true, if_false, eventTime, EventId.bits] <;> bv_omega

theorem arm_cacheValid (x : Scheduler) (id : EventId) (time : Cycles) : (x.arm id time).CacheValid :=
  recompute_cacheValid _

end Sys2Proof.Machine.Scheduler
end

