-- ==== Sys2Proof/Laws/Effect.lean ====
section
/-! SUPPORT. Everything a command can do, said once: the state and the answer of each command that raises nothing, with
the guards under which it does. A proof about all commands is a case analysis on `Effect`. -/

namespace Sys2Proof.Machine

/-- The effect of each command that raises nothing: the state it leaves and what it answers. -/
inductive Effect (s : State) : Instr → State → Response → Prop where
  | nop : Effect s .nop s .zero
  | sched (e : EventId) (time : Cycles) : Effect s (.sched e time) (s.setSched (s.sched.arm e time)) .zero
  | disp (cc : Cycles) (u : State) (cost : Cycles) : s.sched.nextTime ≠ never → ¬ cc < s.sched.nextTime →
      Fired s u cost → Effect s (.disp cc) u (.ok none 0 (cc + cost))
  | rdpLink (cc : Cycles) (x : LinkResult) : updateLink s.params.queueDepth s.link s.queue = .ok x →
      Effect s (.rdp .link cc) ((s.setLink x.link).setQueue x.queue)
        (.ok x.completed (linkReadByte s.romBankHighBit x.link) 0)
  | rdpStatus (cc : Cycles) : Effect s (.rdp .status cc) s
      (.ok none (statusReadByte s.onPressed s.timer.timerPending s.onPending) 0)
  | wrpLink (v : Byte) (cc : Cycles) (rom : Bool) : s.link.linkStatus = .inactive ∨ rom = false →
      Effect s (.wrp .link v cc rom) (linkWritten v s) .zero
  | wrpLinkUpdate (v : Byte) (cc : Cycles) (x : LinkResult) : s.link.linkStatus ≠ .inactive →
      updateLink s.params.queueDepth { s.link with localOutput := linkWriteLines v } s.queue = .ok x →
      Effect s (.wrp .link v cc true) (((linkWritten v s).setLink x.link).setQueue x.queue) (.ok x.completed 0 0)
  | wrpStatus (v : Byte) (cc : Cycles) (rom : Bool) : Effect s (.wrp .status v cc rom) (writeStatus v cc s) .zero
  | wrpIntctl (v : Byte) (cc : Cycles) (rom : Bool) : Effect s (.wrp .intctl v cc rom) (writeIntctl v cc s) .zero
  | enq (b : Byte) : queueFull s.params.queueDepth s.queue = false →
      Effect s (.enq b) (s.setQueue (s.queue ++ [b])) .zero
  | deq (b : Byte) (rest : List Byte) : s.queue = b :: rest → Effect s .deq (s.setQueue rest) (.ok none b 0)
  | clr : Effect s .clr (s.setQueue []) .zero
  | upd (x : LinkResult) : updateLink s.params.queueDepth s.link s.queue = .ok x →
      Effect s .upd ((s.setLink x.link).setQueue x.queue) (.ok x.completed 0 0)
  | armrx (a : Action) : s.link.linkStatus = .inactive → s.queue ≠ [] →
      Effect s (.armrx a) (s.setLink { s.link with linkStatus := .prepReceive, action := a }) .zero
  | armtx (a : Action) (n : BitVec 32) : s.link.linkStatus = .inactive → n ≠ 0#32 →
      Effect s (.armtx a n) (s.setLink { s.link with linkStatus := .prepSend, bytesLeft := n, action := a }) .zero
  | setact (a : Action) : Effect s (.setact a) (s.setLink { s.link with action := a }) .zero

/-- A command that raises nothing has its effect. -/
theorem body_effect {i : Instr} {s u : State} {r : Response} (h : body i s = .ok (u, r)) : Effect s i u r := by
  cases i with
  | disp cc =>
    obtain ⟨h1, h2, c, hf, rfl⟩ := dispatch_ok h
    exact .disp cc u c h1 h2 hf
  | rdp p cc =>
    simp only [body, readPort] at h
    split at h
    · unfold readLink at h
      split at h
      · cases h
        obtain ⟨r, hr, rfl, rfl⟩ := (update_ok_iff _ _ _).1 ‹_›
        exact .rdpLink cc r hr
      · cases h
    · cases h; exact .rdpStatus cc
    all_goals cases h
  | wrp p v cc rom =>
    simp only [body, writePort] at h
    split at h
    · obtain ⟨rfl, rfl, h1⟩ | ⟨rfl, h2, c, hu, rfl⟩ := writeLink_ok h
      · exact .wrpLink v cc rom h1
      · obtain ⟨r, hr, rfl, rfl⟩ := (update_ok_iff _ _ _).1 hu
        exact .wrpLinkUpdate v cc r h2 hr
    · cases h; exact .wrpStatus ..
    · cases h; exact .wrpIntctl ..
    all_goals cases h
  | upd =>
    simp only [body] at h
    split at h
    · cases h
      obtain ⟨r, hr, rfl, rfl⟩ := (update_ok_iff _ _ _).1 ‹_›
      exact .upd r hr
    · cases h
  | enq b =>
    simp only [body] at h
    split at h
    · cases h
      obtain ⟨h1, rfl⟩ := (enqueue_ok_iff _ _ _ _).1 ‹_›
      exact .enq b h1
    · cases h
  | deq =>
    simp only [body] at h
    split at h
    · cases h
      exact .deq _ _ ((dequeue_ok_iff _ _ _).1 ‹_›)
    · cases h
  | armrx a =>
    simp only [body] at h
    split at h
    · cases h
    · cases h
      rename_i h
      simp only [not_or, ne_eq, not_not, List.length_eq_zero_iff] at h
      exact .armrx a h.1 h.2
  | armtx a n =>
    simp only [body] at h
    split at h
    · cases h
    · cases h
      rename_i h
      simp only [not_or, ne_eq, not_not] at h
      exact .armtx a n h.1 h.2
  | nop => cases h; exact .nop
  | sched => cases h; exact .sched ..
  | clr => cases h; exact .clr
  | setact => cases h; exact .setact _

/-- A command has its effect and answers, or raises a fault where it started. -/
theorem exec_effect {i : Instr} {s t : State} (h : exec i s = .next t) :
    (∃ u r, Effect s i u r ∧ t = u.respond r) ∨ ∃ f, body i s = .error f ∧ t = s.raise f := by
  obtain ⟨u, r, hb, rfl⟩ | ⟨f, hb, rfl⟩ := exec_next_cases h
  · exact .inl ⟨u, r, body_effect hb, rfl⟩
  · exact .inr ⟨f, hb, rfl⟩

end Sys2Proof.Machine
end

