-- ==== Sys2Proof/Laws/Handshake.lean ====
section
/-! SUPPORT. One `Update()` of the transport, row by row, as the claims about whole handshakes run it (`State.updated`):
the state it leaves where its wait condition holds. -/

namespace Sys2Proof.Machine.State

variable (s : State)

@[simp] theorem setLink_setLink (l m : Link) : (s.setLink l).setLink m = s.setLink m := rfl
@[simp] theorem setQueue_setLink (l : Link) (q : List Byte) : (s.setQueue q).setLink l = (s.setLink l).setQueue q := rfl
@[simp] theorem setQueue_setQueue (q r : List Byte) : (s.setQueue q).setQueue r = s.setQueue r := rfl
theorem setLink_self (l : Link) (h : s.link = l) : s.setLink l = s := by subst h; rfl
theorem setQueue_self (q : List Byte) (h : s.queue = q) : s.setQueue q = s := by subst h; rfl

@[simp] theorem peerDrives_eq (v : BitVec 2) : s.peerDrives v = s.setLink { s.link with localOutput := v } := rfl

theorem updated_of {x : LinkResult} (h : updateLink s.params.queueDepth s.link s.queue = .ok x) :
    s.updated = some ((s.setLink x.link).setQueue x.queue, x.completed) := by
  unfold updated update; rw [h]; rfl

/-- A row that leaves the queue. -/
theorem updated_link {l : Link} {c : Option Action}
    (h : updateLink s.params.queueDepth s.link s.queue = .ok ⟨l, s.queue, c⟩) : s.updated = some (s.setLink l, c) :=
  s.updated_of h

theorem updated_receive5 (h : s.link.linkStatus = .receive) (h5 : s.link.stepsLeft = 5#3) :
    s.updated = some (s.setLink (receiveStep5 s.link), none) :=
  s.updated_link (by simp [updateLink, h, receiveStep, h5])

/-- R124, R139: with the CPU side released, step 5 of a Receive shows bit 0 of the accumulator as exactly one low wire. -/
theorem wireBit_receiveStep5 (l : Link) (hr : l.localOutput = 0b00#2) :
    wireBit (receiveStep5 l).lineState = some (l.acc.getLsbD 0) := by
  simp only [receiveStep5, Link.lineState, hr]
  cases l.acc.getLsbD 0 <;> rfl

theorem updated_receive4 (h : s.link.linkStatus = .receive) (h4 : s.link.stepsLeft = 4#3)
    (hr : s.link.localOutput = 0b00#2) : s.updated = some (s.setLink { s.link with stepsLeft := 3 }, none) :=
  s.updated_link (by simp [updateLink, h, receiveStep, h4, receiveStep4, hr])

theorem updated_receive3 (h : s.link.linkStatus = .receive) (h3 : s.link.stepsLeft = 3#3) :
    s.updated = some (s.setLink { s.link with xmitOutput := 0b00#2, stepsLeft := 2 }, none) :=
  s.updated_link (by simp [updateLink, h, receiveStep, h3, receiveStep3])

theorem updated_receive2 (h : s.link.linkStatus = .receive) (h2 : s.link.stepsLeft = 2#3)
    (hl : s.link.lineState = 0b00#2) : s.updated = some (s.setLink { s.link with stepsLeft := 1 }, none) :=
  s.updated_link (by simp [updateLink, h, receiveStep, h2, receiveStep2, hl])

theorem updated_receive1 (h : s.link.linkStatus = .receive) (h1 : s.link.stepsLeft = 1#3) :
    s.updated = some (s.setLink (receiveStep1 s.link s.queue).1, (receiveStep1 s.link s.queue).2) :=
  s.updated_link (by simp [updateLink, h, receiveStep, h1])

theorem updated_send5 (h : s.link.linkStatus = .send) (h5 : s.link.stepsLeft = 5#3)
    (hl : s.link.lineState ≠ 0b11#2) :
    s.updated = some (s.setLink { s.link with acc := sampleInto s.link, stepsLeft := 4 }, none) :=
  s.updated_link (by simp [updateLink, h, sendStep, h5, sendStep5, hl])

theorem updated_send4 (h : s.link.linkStatus = .send) (h4 : s.link.stepsLeft = 4#3) :
    s.updated =
      some (s.setLink { s.link with xmitOutput := s.link.localOutput ^^^ 0b11#2, stepsLeft := 3 }, none) :=
  s.updated_link (by simp [updateLink, h, sendStep, h4, sendStep4])

theorem updated_send3 (h : s.link.linkStatus = .send) (h3 : s.link.stepsLeft = 3#3)
    (hr : s.link.localOutput = 0b00#2) : s.updated = some (s.setLink { s.link with stepsLeft := 2 }, none) :=
  s.updated_link (by simp [updateLink, h, sendStep, h3, sendStep3, hr])

theorem updated_send2 (h : s.link.linkStatus = .send) (h2 : s.link.stepsLeft = 2#3) :
    s.updated = some (s.setLink { s.link with xmitOutput := 0b00#2, stepsLeft := 1 }, none) :=
  s.updated_link (by simp [updateLink, h, sendStep, h2, sendStep2])

theorem updated_send1 (h : s.link.linkStatus = .send) (h1 : s.link.stepsLeft = 1#3) {x : LinkResult}
    (hx : sendStep1 s.params.queueDepth s.link s.queue = .ok x) :
    s.updated = some ((s.setLink x.link).setQueue x.queue, x.completed) :=
  s.updated_of (by simp [updateLink, h, sendStep, h1, hx])

theorem updated_prepReceive {b : Byte} {rest : List Byte} (h : s.link.linkStatus = .prepReceive)
    (hq : s.queue = b :: rest) :
    s.updated = some
      ((s.setLink { s.link with acc := b, bitsLeft := 8, stepsLeft := 5, linkStatus := .receive }).setQueue rest,
        none) :=
  s.updated_of (x := ⟨{ s.link with acc := b, bitsLeft := 8, stepsLeft := 5, linkStatus := .receive }, rest, none⟩)
    (by simp [updateLink, h, prepReceive, dequeue, hq])

theorem updated_prepSend (h : s.link.linkStatus = .prepSend) (hl : s.link.lineState = 0b11#2) :
    s.updated =
      some (s.setLink { s.link with linkStatus := .send, bitsLeft := 8, stepsLeft := 5, acc := 0 }, none) :=
  s.updated_link (by simp [updateLink, h, prepSend, hl])

end Sys2Proof.Machine.State
end

