-- ==== Sys2Proof/Laws/Invariant.lean ====
section
/-! SUPPORT. What keeps the invariants of R236: an `Update()` keeps those of the transport and of the queue's depth, row by
row, and every slot write keeps the cache. -/

namespace Sys2Proof.Machine

/-- R84, R236 item 9: an `Update()` leaves a bounded queue within its depth. -/
theorem updateLink_bounded {depth : Option Nat} {l : Link} {q : List Byte} {x : LinkResult}
    (h : updateLink depth l q = .ok x) (hq : ∀ n, depth = some n → q.length ≤ n) :
    ∀ n, depth = some n → x.queue.length ≤ n := by
  intro n hn
  have hl := hq n hn
  have hroom : queueFull depth q = false → q.length + 1 ≤ n := by
    intro hf; subst hn; simp [queueFull] at hf; omega
  cases updateLink_row h with
  | prepReceive b rest h1 h2 => subst h2; exact (Nat.le_succ _).trans hl
  | send1Byte h1 h2 h3 h4 h5 => simpa using hroom h4
  | send1Done h1 h2 h3 h4 h5 => simpa using hroom h4
  | _ => exact hl

/-- The decrement of `bitsLeft` that does not reach 0 stays in 1..8. -/
theorem bitsLeft_pred (x : BitVec 4) (h0 : x - 1 ≠ 0) (h1 : 1 ≤ x.toNat ∧ x.toNat ≤ 8) :
    1 ≤ (x - 1).toNat ∧ (x - 1).toNat ≤ 8 := by
  revert x; decide

/-- R236 items 2 to 6: an `Update()` keeps the transport's invariants. -/
theorem updateLink_inv {depth : Option Nat} {l : Link} {q : List Byte} {x : LinkResult} (hv : l.Inv)
    (h : updateLink depth l q = .ok x) : x.link.Inv := by
  have hr := updateLink_row h
  clear h
  obtain ⟨st, sl, bl, n, acc, lo, xo, act⟩ := l
  obtain ⟨i1, i2, i3, i4, i5, i6, i7, i8⟩ := hv
  cases hr with
  | same => exact ⟨i1, i2, i3, i4, i5, i6, i7, i8⟩
  | prepReceive b rest h1 _ =>
    cases h1
    exact ⟨by simp, by simp, by simp, by simp, fun _ _ => i4 (by simp), by simp, by simp, by simp⟩
  | prepSend h1 _ =>
    cases h1
    exact ⟨by simp, by simp, by simp, by simp, by simp, fun _ _ => i4 (by simp), by simp, fun _ => i8 (by simp)⟩
  | receive5 h1 h2 =>
    cases h1; cases h2
    refine ⟨by simp [receiveStep5], fun _ => ⟨by simp [receiveStep5], (i2 (.inl rfl)).2⟩, by simp [receiveStep5],
      by simp [receiveStep5], by simp [receiveStep5], by simp [receiveStep5], fun _ _ => ?_, by simp [receiveStep5]⟩
    simp only [receiveStep5]
    split <;> simp
  | receive4 h1 h2 _ =>
    cases h1; cases h2
    exact ⟨by simp, fun _ => ⟨by simp, (i2 (.inl rfl)).2⟩, by simp, by simp, by simp, by simp,
      fun _ _ => i7 rfl (.inl rfl), by simp⟩
  | receive3 h1 h2 =>
    cases h1; cases h2
    exact ⟨by simp, fun _ => ⟨by simp, (i2 (.inl rfl)).2⟩, by simp, by simp, by simp, by simp, by simp, by simp⟩
  | receive2 h1 h2 _ =>
    cases h1; cases h2
    exact ⟨by simp, fun _ => ⟨by simp, (i2 (.inl rfl)).2⟩, by simp, by simp, fun _ _ => i5 rfl (.inr (.inl rfl)),
      by simp, by simp, by simp⟩
  | receive1Bit h1 h2 h3 =>
    cases h1; cases h2
    exact ⟨by simp, fun _ => ⟨by simp, bitsLeft_pred _ h3 (i2 (.inl rfl)).2⟩, by simp, by simp,
      fun _ _ => i5 rfl (.inr (.inr rfl)), by simp, by simp, by simp⟩
  | receive1Byte h1 h2 h3 _ =>
    cases h1; cases h2
    exact ⟨by simp, by simp, fun _ => ⟨h3, .inr rfl⟩, fun _ => i5 rfl (.inr (.inr rfl)), by simp, by simp, by simp,
      by simp⟩
  | receive1Done h1 h2 h3 _ =>
    cases h1; cases h2
    exact ⟨by simp, by simp, fun _ => ⟨h3, .inr rfl⟩, fun _ => i5 rfl (.inr (.inr rfl)), by simp, by simp, by simp,
      by simp⟩
  | send5 h1 h2 _ =>
    cases h1; cases h2
    exact ⟨by simp, fun _ => ⟨by simp, (i2 (.inr rfl)).2⟩, by simp, by simp, by simp, fun _ _ => i6 rfl (.inl rfl),
      by simp, i8⟩
  | send4 h1 h2 =>
    cases h1; cases h2
    exact ⟨by simp, fun _ => ⟨by simp, (i2 (.inr rfl)).2⟩, by simp, by simp, by simp, by simp, by simp, i8⟩
  | send3 h1 h2 _ =>
    cases h1; cases h2
    exact ⟨by simp, fun _ => ⟨by simp, (i2 (.inr rfl)).2⟩, by simp, by simp, by simp, by simp, by simp, i8⟩
  | send2 h1 h2 =>
    cases h1; cases h2
    exact ⟨by simp, fun _ => ⟨by simp, (i2 (.inr rfl)).2⟩, by simp, by simp, by simp, by simp, by simp, i8⟩
  | send1Bit h1 h2 h3 =>
    cases h1; cases h2
    exact ⟨by simp, fun _ => ⟨by simp, bitsLeft_pred _ h3 (i2 (.inr rfl)).2⟩, by simp, by simp, by simp,
      fun _ _ => i6 rfl (.inr (.inr rfl)), by simp, i8⟩
  | send1Byte h1 h2 h3 _ h5 =>
    cases h1; cases h2
    exact ⟨by simp, by simp, fun _ => ⟨h3, .inr rfl⟩, fun _ => i6 rfl (.inr (.inr rfl)), by simp, by simp, by simp,
      fun _ => by bv_omega⟩
  | send1Done h1 h2 h3 _ _ =>
    cases h1; cases h2
    exact ⟨by simp, by simp, fun _ => ⟨h3, .inr rfl⟩, fun _ => i6 rfl (.inr (.inr rfl)), by simp, by simp, by simp,
      by simp⟩

/-- R236 items 4 and 5: an `Update()` keeps the history clauses. -/
theorem updateLink_history {depth : Option Nat} {l : Link} {q : List Byte} {x : LinkResult}
    (h : updateLink depth l q = .ok x) : l.HistoryKept x.link := by
  cases updateLink_row h <;> constructor <;> simp_all [receiveStep5]

/-- The history clauses of a transport do not look at the CPU side's driver before the step. -/
theorem Link.HistoryKept.of_driver {l m : Link} {v : BitVec 2}
    (h : ({ l with localOutput := v } : Link).HistoryKept m) : l.HistoryKept m :=
  ⟨h.startsAtFive, h.neverZeroAgain, h.acknowledges, h.holdsTheAcknowledge⟩

/-- A transport whose position and driver stay keeps the history clauses, unless it enters a byte. -/
theorem Link.HistoryKept.of_same {l m : Link} (hs : m.stepsLeft = l.stepsLeft) (hx : m.xmitOutput = l.xmitOutput)
    (h : m.linkStatus = l.linkStatus ∨
      l.linkStatus = .inactive ∧ (m.linkStatus = .prepReceive ∨ m.linkStatus = .prepSend)) : l.HistoryKept m := by
  obtain h | ⟨h, h' | h'⟩ := h <;> constructor <;> simp_all

end Sys2Proof.Machine
end

