-- ==== Sys2Proof/Laws/PerInstr.lean ====
section
/-! SUPPORT. Statements about every command as syntax, one lemma per constructor of `Instr`. -/

namespace Sys2Proof.Laws.EncodesLegally

/-- R79: the word of a command breaks none of the clauses that make a word illegal. -/
def Statement (i : Instr) : Prop := (fieldsOf (encode i)).legal = true

/-- The fields of an encoded command are the ones its encoding rule gives. -/
theorem of_fields {i : Instr} (h : i.fields.legal = true) : Statement i := by
  unfold Statement encode
  rw [fieldsOf_word]
  exact h

theorem nop : Statement .nop := of_fields rfl
theorem sched (id : EventId) (time : Cycles) : Statement (.sched id time) := of_fields (by cases id <;> simp [Instr.fields, RawCommand.legal, RawCommand.opDefined,
    RawCommand.unusedSelZero, RawCommand.unusedDataZero, RawCommand.unusedTimeZero, RawCommand.eventExists,
    RawCommand.actionExists, EventId.bits])
theorem disp (cc : Cycles) : Statement (.disp cc) := of_fields rfl
theorem rdp (port : Port) (cc : Cycles) : Statement (.rdp port cc) := of_fields (by cases port <;> simp [Instr.fields, RawCommand.legal, RawCommand.opDefined,
    RawCommand.unusedSelZero, RawCommand.unusedDataZero, RawCommand.unusedTimeZero, RawCommand.eventExists,
    RawCommand.actionExists, Port.bits])
theorem wrp (port : Port) (val : Byte) (cc : Cycles) (inBankedRom : Bool) :
    Statement (.wrp port val cc inBankedRom) := of_fields rfl
theorem enq (b : Byte) : Statement (.enq b) := of_fields rfl
theorem deq : Statement .deq := of_fields rfl
theorem clr : Statement .clr := of_fields rfl
theorem upd : Statement .upd := of_fields rfl
theorem armrx (act : Action) : Statement (.armrx act) := of_fields (by cases act <;> decide)
theorem armtx (act : Action) (n : BitVec 32) : Statement (.armtx act n) := of_fields (by
  have h : (0#32 ++ n).extractLsb' 32 32 = 0#32 := by
    ext i hi; simp only [BitVec.getElem_extractLsb', BitVec.getLsbD_append]; grind
  cases act <;> simp [Instr.fields, RawCommand.legal, RawCommand.opDefined, RawCommand.unusedSelZero,
    RawCommand.unusedDataZero, RawCommand.unusedTimeZero, RawCommand.eventExists, RawCommand.actionExists, h,
    Action.bits])
theorem setact (act : Action) : Statement (.setact act) := of_fields (by cases act <;> decide)

end Sys2Proof.Laws.EncodesLegally
end

