-- ==== Sys2Proof/Laws/Ports.lean ====
section
/-! SUPPORT. The bytes the port reads return, the table index of the Interrupt-control write, and the period grid that
re-anchoring hits (R180, R182, R184, R186). -/

namespace Sys2Proof.Machine

/-- R180, as the rule writes it. -/
theorem linkReadByte_eq (romBank : Bool) (l : Link) : linkReadByte romBank l =
    ((if romBank then 0x10#8 else 0) ||| (l.lineState.setWidth 8 <<< 2) ||| l.localOutput.setWidth 8) := by
  unfold linkReadByte
  generalize l.lineState = lines
  generalize l.localOutput = driver
  revert romBank lines driver
  decide

/-- R182, as the rule writes it. -/
theorem statusReadByte_eq (onPressed timerPending onPending : Bool) :
    statusReadByte onPressed timerPending onPending =
      ((if onPressed then 0 else 0x08#8) ||| (if timerPending then 0x02#8 else 0) |||
        (if onPending then 0x01#8 else 0)) := by
  revert onPressed timerPending onPending
  decide

/-- R184: bits 4:1 of the value. -/
theorem intctlIndex_toNat (v : Byte) : (intctlIndex v).toNat = v.toNat / 2 % 16 := by revert v; decide

theorem period_toNat_pos (p : Period) : 0 < p.value.toNat :=
  Nat.pos_of_ne_zero fun h => p.pos (BitVec.eq_of_toNat_eq h)

/-- R186: the anchor is the latest multiple of the period at or before the cycle count. -/
theorem anchorOf_spec (cc : Cycles) (p : Period) :
    p.value.toNat ∣ (anchorOf cc p).toNat ∧ (anchorOf cc p).toNat ≤ cc.toNat ∧
      cc.toNat < (anchorOf cc p).toNat + p.value.toNat := by
  have hle := Nat.mod_le cc.toNat p.value.toNat
  have hlt := Nat.mod_lt cc.toNat (period_toNat_pos p)
  have h : (anchorOf cc p).toNat = cc.toNat - cc.toNat % p.value.toNat := by
    unfold anchorOf
    rw [BitVec.toNat_sub_of_le (by rw [BitVec.le_def]; simpa using hle), BitVec.toNat_umod]
  rw [h]
  exact ⟨Nat.dvd_sub_mod _, by omega, by omega⟩

end Sys2Proof.Machine
end

