-- ==== Sys2Proof/Tests/Slice0.lean ====
section
/-! SUPPORT. Small tests against the worked vectors of 95_test_vectors and the encodings of 30_encoding, a smoke test of
every check of WellFormed, and for every statement that has hypotheses a witness that meets them all. -/

namespace Sys2Proof.Tests

open Sys2Proof.Machine

/-! ## The small states the tests start from -/

/-- The illustrative table of 95_test_vectors: entry k is 1000 * (k + 1), which is not a value of the source. -/
def sampleTable : Vector Period 16 := #v[
  ⟨1000, by decide⟩, ⟨2000, by decide⟩, ⟨3000, by decide⟩, ⟨4000, by decide⟩,
  ⟨5000, by decide⟩, ⟨6000, by decide⟩, ⟨7000, by decide⟩, ⟨8000, by decide⟩,
  ⟨9000, by decide⟩, ⟨10000, by decide⟩, ⟨11000, by decide⟩, ⟨12000, by decide⟩,
  ⟨13000, by decide⟩, ⟨14000, by decide⟩, ⟨15000, by decide⟩, ⟨16000, by decide⟩]

/-- The reset state with the illustrative table. -/
def base : State where
  sched := Scheduler.reset
  timer := ⟨false, false, ⟨1000, by decide⟩, 0⟩
  onIntEnable := false
  romBankHighBit := false
  link := Link.reset
  queue := []
  cpu := CpuRegs.reset
  mem := []
  busLog := []
  onPressed := false
  onPending := false
  params := ⟨sampleTable, none, []⟩
  inputs := []
  response := .ok none 0 0
  faultLog := []

/-- `base` with the three slots set and the cache recomputed. -/
def slots (timer interrupt endFrame : Cycles) : State :=
  { base with sched := (Scheduler.mk timer interrupt endFrame .timer never).recompute }

/-- `base` with a transport and a queue. -/
def linked (l : Link) (q : List Byte) : State := { base with link := l, queue := q }

/-- `base` with a bounded queue. -/
def bounded (depth : Nat) (q : List Byte) : State := { base with params := ⟨sampleTable, some depth, []⟩, queue := q }

/-- What a field of the next state is. -/
def field {α : Type} (f : State → α) (o : Host.Outcome State Fault Refusal) : Option α :=
  match o with
  | .next t => some (f t)
  | .fault _ => none
  | .refused _ => none

/-! ## WellFormed: each check of R79 refuses its ill-formed term, and so does the decoder -/

theorem test_legal_refuses_reserved_op :
    (RawCommand.mk 0xC#4 0 0 0).opDefined = false ∧ decodeFields ⟨0xC#4, 0, 0, 0⟩ = .error .reservedOp := by decide

theorem test_legal_refuses_nonzero_sel :
    (RawCommand.mk 0x2#4 1 0 5).unusedSelZero = false ∧
      decodeFields ⟨0x2#4, 1, 0, 5⟩ = .error .unusedFieldNotZero ∧
    (RawCommand.mk 0x1#4 0b0100#4 0 5).unusedSelZero = false ∧
      decodeFields ⟨0x1#4, 0b0100#4, 0, 5⟩ = .error .unusedFieldNotZero ∧
    (RawCommand.mk 0x3#4 0b1000#4 0 0).unusedSelZero = false ∧
      decodeFields ⟨0x3#4, 0b1000#4, 0, 0⟩ = .error .unusedFieldNotZero := by decide

theorem test_legal_refuses_nonzero_data :
    (RawCommand.mk 0x6#4 0 1 0).unusedDataZero = false ∧
      decodeFields ⟨0x6#4, 0, 1, 0⟩ = .error .unusedFieldNotZero := by decide

theorem test_legal_refuses_nonzero_time :
    (RawCommand.mk 0x0#4 0 0 1).unusedTimeZero = false ∧
      decodeFields ⟨0x0#4, 0, 0, 1⟩ = .error .unusedFieldNotZero ∧
    (RawCommand.mk 0xA#4 2 0 0x0000000100000000#64).unusedTimeZero = false ∧
      decodeFields ⟨0xA#4, 2, 0, 0x0000000100000000#64⟩ = .error .unusedFieldNotZero := by decide

theorem test_legal_refuses_event_three :
    (RawCommand.mk 0x1#4 0b0011#4 0 5).eventExists = false ∧
      decodeFields ⟨0x1#4, 0b0011#4, 0, 5⟩ = .error .eventIdThree := by decide

theorem test_legal_refuses_action_seven :
    (RawCommand.mk 0xB#4 0b0111#4 0 0).actionExists = false ∧
      decodeFields ⟨0xB#4, 0b0111#4, 0, 0⟩ = .error .actionIdSeven := by decide

theorem test_legal_accepts_link_read_of_any_time : (RawCommand.mk 0x3#4 0 0 never).legal = true := by decide

/-! ## Decoding: every constructor by a word whose fields are written out from its encoding rule (R60 to R75) -/

theorem test_decode_nop : decode (0b0000#4 ++ 0b0000#4 ++ 0b00000000#8 ++ 0#64) = .ok .nop := by decide
theorem test_decode_sched :
    decode (0b0001#4 ++ 0b0001#4 ++ 0b00000000#8 ++ 5000#64) = .ok (.sched .interrupt 5000) := by decide
theorem test_decode_disp : decode (0b0010#4 ++ 0b0000#4 ++ 0b00000000#8 ++ 100#64) = .ok (.disp 100) := by decide
theorem test_decode_rdp :
    decode (0b0011#4 ++ 0b0100#4 ++ 0b00000000#8 ++ 12346#64) = .ok (.rdp .intctl 12346) := by decide
theorem test_decode_wrp :
    decode (0b0100#4 ++ 0b1011#4 ++ 0b01011010#8 ++ 16#64) = .ok (.wrp .status 0x5A 16 true) := by decide
theorem test_decode_enq : decode (0b0101#4 ++ 0b0000#4 ++ 0b10100101#8 ++ 0#64) = .ok (.enq 0xA5) := by decide
theorem test_decode_deq : decode (0b0110#4 ++ 0b0000#4 ++ 0b00000000#8 ++ 0#64) = .ok .deq := by decide
theorem test_decode_clr : decode (0b0111#4 ++ 0b0000#4 ++ 0b00000000#8 ++ 0#64) = .ok .clr := by decide
theorem test_decode_upd : decode (0b1000#4 ++ 0b0000#4 ++ 0b00000000#8 ++ 0#64) = .ok .upd := by decide
theorem test_decode_armrx :
    decode (0b1001#4 ++ 0b0011#4 ++ 0b00000000#8 ++ 0#64) = .ok (.armrx .endTransmission) := by decide
theorem test_decode_armtx :
    decode (0b1010#4 ++ 0b0001#4 ++ 0b00000000#8 ++ 0#32 ++ 8#32) = .ok (.armtx .sendVariableData 8) := by decide
theorem test_decode_setact :
    decode (0b1011#4 ++ 0b0101#4 ++ 0b00000000#8 ++ 0#64) = .ok (.setact .finalizeFile) := by decide

/-- R77: the words of the pseudo-instructions, from the vectors of 95_test_vectors 2.2 and programs 2 and 4. -/
theorem test_pseudo_words :
    encode (Pseudo.irq 3000).expand = 0x11000000000000000BB8#80 ∧
    encode (Pseudo.disarm .timer).expand = 0x1000FFFFFFFFFFFFFFFF#80 ∧
    encode (Pseudo.frame 70000).expand = 0x12000000000000011170#80 ∧
    encode (Pseudo.linkw 0x03).expand = 0x40030000000000000000#80 ∧
    encode Pseudo.linkr.expand = 0x30000000000000000000#80 := by decide

/-! ## One step of each command, from the vectors of 95_test_vectors -/

/-- A word placed by the host's entry is the very next command. -/
theorem test_nop_from_reset :
    field (fun t => (t.response, t.inputs)) (step (State.reset.withFetchWord 80 0)) =
      some (.ok none 0 0, []) := by decide

/-- V-S3: on a tie the Timer stays the cached event. -/
theorem test_sched_tie :
    field (fun t => (t.sched.interrupt, t.sched.nextId, t.sched.nextTime))
      (exec (.sched .interrupt 5000) (slots 5000 never 70000)) = some (5000, .timer, 5000) := by decide

/-- V-S5: Interrupt beats EndFrame. -/
theorem test_sched_interrupt_before_frame :
    field (fun t => (t.sched.nextId, t.sched.nextTime)) (exec (.sched .interrupt 70000) (slots never 5000 70000)) =
      some (.interrupt, 70000) := by decide

/-- V-D1: the Timer fires and cascades in mode 1. -/
theorem test_disp_cascade_mode1 :
    field (fun t => ((t.sched.timer, t.sched.nextId, t.timer.timerPending, t.timer.timerLastUpdate), t.cpu, t.busLog,
        t.response))
      (exec (.disp 13005) { slots 13000 never 70000 with cpu := ⟨0x1234, 0xFFF0, true, true, 1, 0, 0x7F⟩ }) =
    some ((14000, .timer, true, 13000), ⟨0x0038, 0xFFEE, false, false, 1, 0, 0x00⟩,
      [.write 0xFFEF 0x12, .write 0xFFEE 0x34], .ok none 0 13018) := by decide

/-- V-D11: in mode 2 the vector reads see the pushed bytes where the stack overlaps the vector. -/
theorem test_disp_mode2_overlap :
    field (fun t => (t.cpu, t.busLog, t.response))
      (exec (.disp 100) { slots never 100 never with
        cpu := ⟨0xBEEF, 0xFF02, true, false, 2, 0xFF, 0⟩, mem := [(0xFF00, 0x11), (0xFF01, 0x22)] }) =
    some (⟨0xBEEF, 0xFF00, false, false, 2, 0xFF, 1⟩,
      [.write 0xFF01 0xBE, .write 0xFF00 0xEF, .read 0xFF00 0xEF, .read 0xFF01 0xBE], .ok none 0 119) := by decide

/-- R180's example: an inactive transport reads 0x19. -/
theorem test_rdp_link :
    field (fun t => t.response)
      (exec (.rdp .link 0) { linked { Link.reset with localOutput := 0b01 } [] with romBankHighBit := true }) =
    some (.ok none 0x19 0) := by decide

/-- R182's example: ON not pressed, timer pending. -/
theorem test_rdp_status :
    field (fun t => t.response)
      (exec (.rdp .status 0) { base with timer := { base.timer with timerPending := true } }) =
    some (.ok none 0x0A 0) := by decide

/-- V-P1 then V-P2's values: the re-anchor of a Status write and of an Interrupt-control write. -/
theorem test_wrp_timer_ports :
    field (fun t => (t.timer.timerIntEnable, t.onIntEnable, t.timer.timerLastUpdate, t.sched.timer))
      (exec (.wrp .status 0x02 12345 false) base) = some (true, false, 12000, 13000) ∧
    field (fun t => (t.timer.timerPeriod.value, t.timer.timerLastUpdate, t.sched.timer))
      (exec (.wrp .intctl 0x06 12345 false) { base with timer := { base.timer with timerIntEnable := true } }) =
    some (4000, 12000, 16000) := by decide

/-- V-L21 and V-L22: a Link write re-drives the transport from banked ROM only. -/
theorem test_wrp_link_redrive :
    field (fun t => (t.link.localOutput, t.link.stepsLeft))
      (exec (.wrp .link 0x03 0 true) (linked { Link.reset with linkStatus := .receive, stepsLeft := 2 } [])) =
      some (0b11, 1) ∧
    field (fun t => (t.link.localOutput, t.link.stepsLeft))
      (exec (.wrp .link 0x03 0 false) (linked { Link.reset with linkStatus := .receive, stepsLeft := 2 } [])) =
      some (0b11, 2) := by decide

/-- V-Q8: a full bounded queue. -/
theorem test_enq_full :
    field (fun t => (t.queue, t.response)) (exec (.enq 0x03) (bounded 2 [0x01, 0x02])) =
      some ([0x01, 0x02], .fault .queueOverflow) := by decide

/-- V-Q3: the oldest byte leaves first. -/
theorem test_deq_oldest :
    field (fun t => (t.queue, t.response)) (exec .deq (linked Link.reset [0x03, 0xC9])) =
      some ([0xC9], .ok none 0x03 0) := by decide

/-- V-Q6. -/
theorem test_clr : field (fun t => t.queue) (exec .clr (linked Link.reset [0x09, 0x56])) = some [] := by decide

/-- V-L17: the eighth sampled bit lands in bit 7. -/
theorem test_upd_last_sample :
    field (fun t => (t.link.acc, t.link.stepsLeft))
      (exec .upd (linked { Link.reset with
        linkStatus := .send, stepsLeft := 5, bitsLeft := 1, acc := 0x7F, localOutput := 0b10 } [])) =
      some (0xFF, 4) := by decide

/-- 95_test_vectors 3.4, call 2: bit 0 of 0xA5 is a 1, so wire 1 goes low. -/
theorem test_upd_receive_drive :
    field (fun t => (t.link.acc, t.link.xmitOutput, t.link.lineState))
      (exec .upd (linked { Link.reset with
        linkStatus := .receive, stepsLeft := 5, bitsLeft := 8, acc := 0xA5 } [])) =
      some (0x52, 0b10, 0b01) := by decide

/-- V-L2 and V-L4. -/
theorem test_armrx :
    field (fun t => (t.link.linkStatus, t.link.action)) (exec (.armrx .receiveReqAck) (linked Link.reset [0xA5])) =
      some (.prepReceive, .receiveReqAck) ∧
    field (fun t => t.response) (exec (.armrx .receiveReqAck) base) = some (.fault .badArm) := by decide

/-- V-L5 and V-L8. -/
theorem test_armtx :
    field (fun t => (t.link.linkStatus, t.link.bytesLeft, t.link.action)) (exec (.armtx .sendVariableData 1) base) =
      some (.prepSend, 1, .sendVariableData) ∧
    field (fun t => t.response) (exec (.armtx .endTransmission 0) base) = some (.fault .badArm) := by decide

/-- V-L10. -/
theorem test_setact : field (fun t => t.link.action) (exec (.setact .finalizeFile) base) = some .finalizeFile := by
  decide

/-- 95_test_vectors 3.4, call 41, and program 2's last response word: the strobe of the last bit. -/
theorem test_response_word_of_completion :
    field (fun t => t.response.word)
      (exec (.rdp .link 0) (linked { Link.reset with
        linkStatus := .receive, stepsLeft := 1, bitsLeft := 1, action := .receiveReqAck } [])) =
      some 0x080C0000000000000000#80 := by decide

/-! ## Witnesses: states and operands that meet the hypotheses of each statement, clause by clause -/

/-- `base` with the caller's word next. -/
def issuing (w : CommandWord) : State := { base with inputs := [.command w] }

theorem witness_StepRunsTheDecodedCommand : ∃ (s : State) (w : CommandWord) (rest : List Input) (i : Instr),
    s.inputs = .command w :: rest ∧ decode w = .ok i :=
  ⟨issuing 0x50A50000000000000000#80, _, [], .enq 0xA5, rfl, by decide⟩

theorem witness_StepBetweenCommands :
    (∃ s : State, s.inputs = []) ∧ (∃ (s : State) (regs : CpuRegs), s.inputs = [.cpu regs]) ∧
    (∃ (s : State) (p q : Bool), s.inputs = [.onKey p q]) ∧
    (∃ (s : State) (a : Addr) (b : Byte), s.inputs = [.memory a b]) :=
  ⟨⟨base, rfl⟩, ⟨{ base with inputs := [.cpu CpuRegs.reset] }, _, rfl⟩,
    ⟨{ base with inputs := [.onKey true false] }, _, _, rfl⟩,
    ⟨{ base with inputs := [.memory 0xFFFF 0x56] }, _, _, rfl⟩⟩

/-- A refused word, and the port selects on each side of the three in the block. -/
theorem witness_IllegalWordsRaiseIllegalCommand :
    (∃ (s : State) (w : CommandWord) (rest : List Input), s.inputs = .command w :: rest ∧
      (fieldsOf w).legal = false) ∧
    (∀ p ∈ [1#3, 2#3, 5#3, 6#3, 7#3], p ≠ 0 ∧ p ≠ 3 ∧ p ≠ 4) :=
  ⟨⟨issuing 0xC0000000000000000000#80, _, [], rfl, by decide⟩, by decide⟩

theorem witness_EncodeOfDecodeIsTheWord : ∃ (w : CommandWord) (i : Instr), decode w = .ok i :=
  ⟨0xA20000000000FFFFFFFF#80, .armtx .receiveDataAck 4294967295, by decide⟩

/-- A decoding word, the two side conditions at their boundary from both sides, and one row that a word matches. -/
theorem witness_DecoderAgreesWithTheOpcodeTable :
    decode 0x20000000000000000064#80 = .ok (.disp 100) ∧
    (∃ row ∈ opcodeTable, row.mnemonic = "DISP" ∧ 0x20000000000000000064#80 &&& row.mask = row.pattern) ∧
    (∃ row ∈ opcodeTable, row.mnemonic = "SCHED" ∧ 0x13000000000000000005#80 &&& row.mask = row.pattern ∧
      (0x13000000000000000005#80 : CommandWord).extractLsb' 72 2 = 3) ∧
    (∃ row ∈ opcodeTable, row.mnemonic = "ARMTX" ∧ 0xA7000000000000000001#80 &&& row.mask = row.pattern ∧
      (0xA7000000000000000001#80 : CommandWord).extractLsb' 72 3 = 7) ∧
    decode 0x12000000000000000005#80 = .ok (.sched .endFrame 5) ∧
    decode 0xA6000000000000000001#80 = .ok (.armtx .doNothing 1) := by decide

/-- Each field of an answer, not zero. -/
theorem witness_ResponseWordFields :
    (∃ t, exec .deq (linked Link.reset [0x36]) = .next t ∧ t.response = .ok none 0x36 0) ∧
    (∃ t, exec (.disp 70003) (slots never never 70000) = .next t ∧ t.response = .ok none 0 70003) ∧
    (∃ t, exec .upd (linked { Link.reset with linkStatus := .receive, stepsLeft := 1, bitsLeft := 1 } []) = .next t ∧
      t.response = .ok (some .doNothing) 0 0) :=
  ⟨⟨_, rfl, by decide⟩, ⟨_, rfl, by decide⟩, ⟨_, rfl, by decide⟩⟩

theorem witness_SchedWritesItsSlotAndRecomputes : ∃ e id : EventId, e ≠ id := ⟨.timer, .interrupt, by decide⟩

/-- The last due count too early, and the two ways to mode 3 at the first due count. -/
theorem witness_DispatchFaultsInOrder :
    base.sched.nextTime = never ∧
    ((slots never never 70000).sched.nextTime ≠ never ∧ (69999 : Cycles) < (slots never never 70000).sched.nextTime) ∧
    (∃ s : State, s.Due 50 .interrupt ∧ s.cpu.im = 3) ∧
    (∃ s : State, s.Due 60 .timer ∧ s.MayCascade ∧ s.cpu.im = 3) :=
  ⟨rfl, by decide, ⟨{ slots never 50 70000 with cpu := { CpuRegs.reset with im := 3 } }, by decide, by decide⟩,
    ⟨{ slots 60 never 70000 with cpu := { CpuRegs.reset with im := 3, iff := true } }, by decide, by decide, by decide⟩⟩

theorem witness_TimerFireAndItsCascade :
    (∃ s : State, s.Due 13000 .timer ∧ ¬ s.MayCascade) ∧
    (∃ s : State, s.Due 13000 .timer ∧ s.MayCascade ∧ s.cpu.im ≠ 3) ∧
    (∃ s : State, s.Due 13000 .timer ∧ s.MayCascade ∧ s.cpu.im = 3) :=
  ⟨⟨slots 13000 13500 never, by decide, by decide⟩,
    ⟨{ slots 13000 never 70000 with cpu := { CpuRegs.reset with im := 2, iff := true } },
      by decide, by decide, by decide⟩,
    ⟨{ slots 13000 never 70000 with cpu := { CpuRegs.reset with im := 3, iff := true } },
      by decide, by decide, by decide⟩⟩

/-- Every mode that has a meaning, and mode 3. -/
theorem witness_InterruptFireDelivers : ∀ m : BitVec 2, ∃ s : State, s.Due 100 .interrupt ∧ s.cpu.im = m := by
  intro m
  have h : (slots never 100 70000).Due 100 .interrupt := by decide
  exact ⟨{ slots never 100 70000 with cpu := { CpuRegs.reset with im := m } }, h, rfl⟩

theorem witness_EndFrameFireDisarmsItself : (slots never never 70000).Due 70000 .endFrame := by decide

theorem witness_DispatchReturnsTheBranchCost : ∃ t, exec (.disp 100) (slots never 100 70000) = .next t ∧
    t.response = .ok none 0 111 := ⟨_, rfl, by decide⟩

theorem slots_cacheValid (a b c : Cycles) : (slots a b c).sched.CacheValid := Scheduler.recompute_cacheValid _

/-- A tie of Timer and Interrupt, and a run of each of the three events. -/
theorem witness_DispatchServesTheEarliestEvent :
    (∃ s t : State, s.sched.CacheValid ∧ exec (.disp 70000) s = .next t ∧ t.response = .ok none 0 70000 ∧
      t.sched.endFrame ≠ s.sched.endFrame) ∧
    (∃ s t : State, s.sched.CacheValid ∧ exec (.disp 100) s = .next t ∧ t.response = .ok none 0 111 ∧
      t.sched.interrupt ≠ s.sched.interrupt) ∧
    (∃ s t : State, s.sched.CacheValid ∧ exec (.disp 3000) s = .next t ∧ t.response = .ok none 0 3000 ∧
      t.sched.timer ≠ s.sched.timer ∧ s.sched.timer = s.sched.interrupt ∧ s.sched.timer ≤ s.sched.endFrame) :=
  ⟨⟨slots never never 70000, _, slots_cacheValid .., rfl, by decide, by decide⟩,
    ⟨slots never 100 100, _, slots_cacheValid .., rfl, by decide, by decide⟩,
    ⟨slots 3000 3000 3000, _, slots_cacheValid .., rfl, by decide, by decide, by decide, by decide⟩⟩

/-- An address outside the two pushed bytes, and each of the three cases that store nothing. -/
theorem witness_DispatchFrame :
    (∃ t, exec (.disp 100) { slots never 100 70000 with cpu := { CpuRegs.reset with im := 1 } } = .next t) ∧
    (0x8000#16 ≠ CpuRegs.reset.sp - 1 ∧ 0x8000#16 ≠ CpuRegs.reset.sp - 2) ∧
    (slots never 100 70000).cpu.im = 0 ∧ (slots never never 70000).sched.nextId = .endFrame ∧
    ((slots 13000 13500 never).sched.nextId = .timer ∧ ¬ (slots 13000 13500 never).MayCascade) :=
  ⟨⟨_, rfl⟩, by decide, by decide, by decide, by decide⟩

/-- A run of one step that moves the cache. -/
theorem witness_CacheStaysTheArgmin : ∃ s t : State, s.sched.CacheValid ∧ Reaches s t ∧ t.sched.nextTime = 70000 := by
  refine ⟨issuing 0x12000000000000011170#80, _, ⟨rfl, ?_, ?_⟩, .tail .refl rfl, by decide⟩ <;>
    (intro e; cases e <;> decide)

theorem witness_QueueCommands :
    base.params.queueDepth ≠ some base.queue.length ∧
    (bounded 3 [0x01, 0x02]).params.queueDepth ≠ some (bounded 3 [0x01, 0x02]).queue.length ∧
    (bounded 2 [0x01, 0x02]).params.queueDepth = some (bounded 2 [0x01, 0x02]).queue.length ∧
    (∃ (s : State) (b : Byte) (rest : List Byte), s.queue = b :: rest) ∧ base.queue = [] :=
  ⟨by decide, by decide, rfl, ⟨linked Link.reset [0x36], _, _, rfl⟩, rfl⟩

/-- Exactly as much room as the bytes need. -/
theorem witness_QueueIsFirstInFirstOut : ∃ (bs : List Byte) (s : State),
    bs.length = 2 ∧ s.queue.length = 1 ∧ s.params.queueDepth = some 3 ∧ HasRoom s.params.queueDepth s.queue bs.length :=
  ⟨[0xC9, 0x03], bounded 3 [0x36], rfl, rfl, rfl, by intro d h; cases h; decide⟩

theorem witness_LineStateIsTheWiredOr : (0 : Nat) < 2 ∧ (1 : Nat) < 2 := by decide

theorem witness_UpdInactiveOrOutOfRange :
    (base.link.linkStatus = .inactive) ∧
    (∃ s : State, s.link.linkStatus = .send ∧ s.link.stepsLeft = 6) ∧
    (∃ s : State, s.link.linkStatus = .receive ∧ s.link.stepsLeft = 1 ∧ s.link.bitsLeft = 0) ∧
    (∃ s : State, s.link.linkStatus = .send ∧ s.link.stepsLeft = 5 ∧ s.link.bitsLeft.toNat = 9 ∧
      s.link.lineState ≠ 0b11#2) ∧
    (∃ s : State, s.link.linkStatus = .send ∧ s.link.stepsLeft = 5 ∧ s.link.bitsLeft = 0 ∧
      s.link.lineState ≠ 0b11#2) :=
  ⟨rfl, ⟨linked { Link.reset with linkStatus := .send, stepsLeft := 6 } [], rfl, rfl⟩,
    ⟨linked { Link.reset with linkStatus := .receive, stepsLeft := 1 } [], rfl, rfl, rfl⟩,
    ⟨linked { Link.reset with linkStatus := .send, stepsLeft := 5, bitsLeft := 9, localOutput := 0b10 } [],
      rfl, rfl, rfl, by decide⟩,
    ⟨linked { Link.reset with linkStatus := .send, stepsLeft := 5, localOutput := 0b10 } [], rfl, rfl, rfl, by decide⟩⟩

theorem witness_UpdPreStates :
    (∃ (s : State) (b : Byte) (rest : List Byte), s.link.linkStatus = .prepReceive ∧ s.queue = b :: rest) ∧
    (∃ s : State, s.link.linkStatus = .prepReceive ∧ s.queue = []) ∧
    (∃ s : State, s.link.linkStatus = .prepSend ∧ s.link.lineState = 0b11#2) ∧
    (∃ s : State, s.link.linkStatus = .prepSend ∧ s.link.lineState ≠ 0b11#2) :=
  ⟨⟨linked { Link.reset with linkStatus := .prepReceive } [0xA5], _, _, rfl, rfl⟩,
    ⟨linked { Link.reset with linkStatus := .prepReceive } [], rfl, rfl⟩,
    ⟨linked { Link.reset with linkStatus := .prepSend } [], rfl, by decide⟩,
    ⟨linked { Link.reset with linkStatus := .prepSend, localOutput := 0b01 } [], rfl, by decide⟩⟩

/-- The Receive states of 95_test_vectors 3.2, V-L11 to V-L15, and step 5 and 3. -/
theorem witness_UpdReceiveSteps :
    (∃ s : State, s.link.linkStatus = .receive ∧ s.link.stepsLeft = 5) ∧
    (∃ s : State, s.link.linkStatus = .receive ∧ s.link.stepsLeft = 4 ∧ s.link.localOutput = 0b00#2) ∧
    (∃ s : State, s.link.linkStatus = .receive ∧ s.link.stepsLeft = 4 ∧ s.link.localOutput ≠ 0b00#2) ∧
    (∃ s : State, s.link.linkStatus = .receive ∧ s.link.stepsLeft = 3) ∧
    (∃ s : State, s.link.linkStatus = .receive ∧ s.link.stepsLeft = 2 ∧ s.link.lineState = 0b00#2) ∧
    (∃ s : State, s.link.linkStatus = .receive ∧ s.link.stepsLeft = 2 ∧ s.link.lineState ≠ 0b00#2) :=
  ⟨⟨linked { Link.reset with linkStatus := .receive, stepsLeft := 5 } [], rfl, rfl⟩,
    ⟨linked { Link.reset with linkStatus := .receive, stepsLeft := 4 } [], rfl, rfl, rfl⟩,
    ⟨linked { Link.reset with linkStatus := .receive, stepsLeft := 4, localOutput := 0b11 } [], rfl, rfl, by decide⟩,
    ⟨linked { Link.reset with linkStatus := .receive, stepsLeft := 3 } [], rfl, rfl⟩,
    ⟨linked { Link.reset with linkStatus := .receive, stepsLeft := 2, localOutput := 0b11 } [], rfl, rfl, by decide⟩,
    ⟨linked { Link.reset with linkStatus := .receive, stepsLeft := 2, localOutput := 0b01 } [], rfl, rfl, by decide⟩⟩

theorem witness_UpdReceiveStepOne :
    (∃ s : State, s.link.linkStatus = .receive ∧ s.link.stepsLeft = 1 ∧ s.link.bitsLeft ≠ 1) ∧
    (∃ s : State, s.link.linkStatus = .receive ∧ s.link.stepsLeft = 1 ∧ s.link.bitsLeft = 1 ∧ s.queue ≠ []) ∧
    (∃ s : State, s.link.linkStatus = .receive ∧ s.link.stepsLeft = 1 ∧ s.link.bitsLeft = 1 ∧ s.queue = []) :=
  ⟨⟨linked { Link.reset with linkStatus := .receive, stepsLeft := 1, bitsLeft := 2 } [], rfl, rfl, by decide⟩,
    ⟨linked { Link.reset with linkStatus := .receive, stepsLeft := 1, bitsLeft := 1 } [0xC9], rfl, rfl, rfl,
      by decide⟩,
    ⟨linked { Link.reset with linkStatus := .receive, stepsLeft := 1, bitsLeft := 1 } [], rfl, rfl, rfl, rfl⟩⟩

/-- Step 5 at the first and at the last bit, and every other step. -/
theorem witness_UpdSendSteps :
    (∃ s : State, s.link.linkStatus = .send ∧ s.link.stepsLeft = 5 ∧ s.link.bitsLeft.toNat = 8 ∧
      s.link.lineState ≠ 0b11#2) ∧
    (∃ s : State, s.link.linkStatus = .send ∧ s.link.stepsLeft = 5 ∧ s.link.bitsLeft.toNat = 1 ∧
      s.link.lineState ≠ 0b11#2) ∧
    (∃ s : State, s.link.linkStatus = .send ∧ s.link.stepsLeft = 5 ∧ s.link.lineState = 0b11#2) ∧
    (∃ s : State, s.link.linkStatus = .send ∧ s.link.stepsLeft = 4) ∧
    (∃ s : State, s.link.linkStatus = .send ∧ s.link.stepsLeft = 3 ∧ s.link.localOutput = 0b00#2) ∧
    (∃ s : State, s.link.linkStatus = .send ∧ s.link.stepsLeft = 3 ∧ s.link.localOutput ≠ 0b00#2) ∧
    (∃ s : State, s.link.linkStatus = .send ∧ s.link.stepsLeft = 2) :=
  ⟨⟨linked { Link.reset with linkStatus := .send, stepsLeft := 5, bitsLeft := 8, localOutput := 0b11 } [],
      rfl, rfl, rfl, by decide⟩,
    ⟨linked { Link.reset with linkStatus := .send, stepsLeft := 5, bitsLeft := 1, localOutput := 0b10 } [],
      rfl, rfl, rfl, by decide⟩,
    ⟨linked { Link.reset with linkStatus := .send, stepsLeft := 5 } [], rfl, rfl, by decide⟩,
    ⟨linked { Link.reset with linkStatus := .send, stepsLeft := 4 } [], rfl, rfl⟩,
    ⟨linked { Link.reset with linkStatus := .send, stepsLeft := 3 } [], rfl, rfl, rfl⟩,
    ⟨linked { Link.reset with linkStatus := .send, stepsLeft := 3, localOutput := 0b01 } [], rfl, rfl, by decide⟩,
    ⟨linked { Link.reset with linkStatus := .send, stepsLeft := 2 } [], rfl, rfl⟩⟩

/-- A Send at step 1 of the last bit. -/
def lastBit (n : BitVec 32) : Link :=
  { Link.reset with linkStatus := .send, stepsLeft := 1, bitsLeft := 1, bytesLeft := n, acc := 0x77 }

theorem witness_UpdSendStepOne :
    (∃ s : State, s.link.linkStatus = .send ∧ s.link.stepsLeft = 1 ∧ s.link.bitsLeft ≠ 1) ∧
    (∃ s : State, s.link = lastBit 1 ∧ s.params.queueDepth = some s.queue.length) ∧
    (∃ s : State, s.link = lastBit 2 ∧ s.params.queueDepth ≠ some s.queue.length ∧ s.link.bytesLeft ≠ 1) ∧
    (∃ s : State, s.link = lastBit 1 ∧ s.params.queueDepth ≠ some s.queue.length) :=
  ⟨⟨linked { lastBit 1 with bitsLeft := 2 } [], rfl, rfl, by decide⟩,
    ⟨{ bounded 1 [0xEE] with link := lastBit 1 }, rfl, rfl⟩,
    ⟨{ bounded 1 [] with link := lastBit 2 }, rfl, by decide, by decide⟩,
    ⟨{ bounded 1 [] with link := lastBit 1 }, rfl, by decide⟩⟩

theorem witness_CompletionStrobesTheCurrentAction : ∃ t, exec .upd (linked (lastBit 1) []) = .next t ∧
    t.response = .ok (some .doNothing) 0 0 ∧ (linked (lastBit 1) []).link.linkStatus ≠ .inactive ∧
    t.link.linkStatus = .inactive := ⟨_, rfl, by decide, by decide, by decide⟩

theorem witness_ArmingCommands :
    (∃ s : State, s.link.linkStatus = .inactive ∧ s.queue ≠ []) ∧
    (∃ s : State, s.link.linkStatus ≠ .inactive ∨ s.queue = []) ∧
    (∃ (s : State) (n : BitVec 32), s.link.linkStatus = .inactive ∧ n ≠ 0) ∧
    (∃ (s : State) (n : BitVec 32), s.link.linkStatus ≠ .inactive ∨ n = 0) :=
  ⟨⟨linked Link.reset [0xA5], rfl, by decide⟩, ⟨linked (lastBit 1) [0xA5], .inl (by decide)⟩,
    ⟨base, 1, rfl, by decide⟩, ⟨linked (lastBit 1) [], 4, .inl (by decide)⟩⟩

/-- A command that is no `Update()` while a transfer is under way. -/
theorem witness_OnlyAnUpdateMovesTheTransport : ∃ (i : Instr) (s t : State), exec i s = .next t ∧ i ≠ .upd ∧
    (∀ cc, i ≠ .rdp .link cc) ∧ (s.link.linkStatus ≠ .inactive ∧ ∀ v cc, i ≠ .wrp .link v cc true) ∧
    (∀ a, i ≠ .armrx a) ∧ (∀ a n, i ≠ .armtx a n) :=
  ⟨.wrp .link 0x03 0 false, linked (lastBit 1) [], _, rfl, by simp, by simp, ⟨by decide, by simp⟩, by simp, by simp⟩

/-- The last bit that is not the byte's last. -/
theorem witness_ReceiveBitHandshake : ∃ s : State, s.link.linkStatus = .receive ∧ s.link.stepsLeft = 5 ∧
    s.link.localOutput = 0b00#2 ∧ s.link.bitsLeft.toNat = 2 :=
  ⟨linked { Link.reset with linkStatus := .receive, stepsLeft := 5, bitsLeft := 2, acc := 0x01 } [], rfl, rfl, rfl, rfl⟩

theorem witness_ReceiveByteArrivesLsbFirst : ∃ (s : State) (b : Byte) (rest : List Byte),
    s.link.linkStatus = .prepReceive ∧ s.queue = b :: rest ∧ s.link.localOutput = 0b00#2 :=
  ⟨linked { Link.reset with linkStatus := .prepReceive } [0xA5], _, _, rfl, rfl, rfl⟩

theorem witness_ReceiveDeliversTheWholeQueue : ∃ s : State, s.link.linkStatus = .prepReceive ∧ s.queue ≠ [] ∧
    s.link.localOutput = 0b00#2 :=
  ⟨linked { Link.reset with linkStatus := .prepReceive } [0x03, 0xC9], rfl, by decide, rfl⟩

theorem witness_SendCollectsTheBytes : ∃ (bs : List Byte) (s : State), s.link.linkStatus = .prepSend ∧ bs ≠ [] ∧
    s.link.localOutput = 0b00#2 ∧ s.link.xmitOutput = 0b00#2 ∧ s.link.bytesLeft.toNat = bs.length ∧
    HasRoom s.params.queueDepth s.queue bs.length :=
  ⟨[0x09, 0x56], { bounded 2 [] with link := { Link.reset with linkStatus := .prepSend, bytesLeft := 2 } },
    rfl, by decide, rfl, rfl, rfl, by intro d h; cases h; decide⟩

theorem witness_LinkReadUpdatesThenReads :
    base.link.linkStatus = .inactive ∧
    (∃ (s t : State) (c : Option Action) (d : Byte) (τ : Cycles), exec .upd s = .next t ∧ t.response = .ok c d τ) ∧
    (∃ (s t : State) (f : FaultCode), exec .upd s = .next t ∧ t.response = .fault f) :=
  ⟨rfl, ⟨linked (lastBit 1) [], _, _, _, _, rfl, rfl⟩,
    ⟨linked { Link.reset with linkStatus := .prepReceive } [], _, _, rfl, rfl⟩⟩

theorem witness_LinkWriteSetsThenRedrives :
    (base.link.linkStatus = .inactive) ∧
    (∃ s t : State, s.link.linkStatus ≠ .inactive ∧ exec .upd (linkWritten 0x00 s) = .next t ∧
      ∃ c d τ, t.response = .ok c d τ) ∧
    (∃ s t : State, s.link.linkStatus ≠ .inactive ∧ exec .upd (linkWritten 0x13 s) = .next t ∧
      ∃ f, t.response = .fault f) :=
  ⟨rfl, ⟨linked (lastBit 1) [], _, by decide, rfl, _, _, _, rfl⟩,
    ⟨linked { Link.reset with linkStatus := .prepReceive } [], _, by decide, rfl, _, rfl⟩⟩

theorem witness_StatusWriteEnablesOrDisables :
    (∃ (i : Instr) (s t : State), exec i s = .next t ∧ s.timer.timerPending = true ∧ t.timer.timerPending = false) ∧
    (0x02#8 : Byte).getLsbD 1 = true ∧ (0x01#8 : Byte).getLsbD 1 = false :=
  ⟨⟨.wrp .status 0x01 0 false, { base with timer := { base.timer with timerPending := true } }, _, rfl, rfl,
    by decide⟩, by decide, by decide⟩

/-- The last entry of the table, with the timer interrupt on and off. -/
theorem witness_IntctlWriteSelectsThePeriod : ∃ (v : Byte) (s : State) (k : Fin 16) (p : Period),
    k.val = v.toNat / 2 % 16 ∧ p = s.params.periodTable[k] ∧ s.timer.timerIntEnable = false ∧
    { s.timer with timerIntEnable := true }.timerIntEnable = true :=
  ⟨0x1E, base, 15, _, by decide, rfl, rfl, rfl⟩

theorem witness_ReanchorHitsThePeriodGrid :
    (∃ (v : Byte) (t : State), exec (.wrp .status v 16000 false) base = .next t ∧ v.getLsbD 1 = true ∧
      t.timer.timerIntEnable = true ∧
      t.timer.timerLastUpdate.toNat + t.timer.timerPeriod.value.toNat < 2 ^ 64) ∧
    (∃ t : State, exec (.wrp .intctl 0x1E 20000 false) base = .next t ∧ t.timer.timerIntEnable = false) :=
  ⟨⟨0x02, _, rfl, by decide, by decide, by decide⟩, ⟨_, rfl, by decide⟩⟩

/-- V-P7: the Timer was due at exactly the count of the write. -/
theorem witness_ReanchoringWriteLosesAnOverdueFire :
    (∃ (v : Byte) (s t : State), v.getLsbD 1 = true ∧ s.sched.timer ≤ 32000 ∧
      exec (.wrp .status v 32000 false) s = .next t ∧ 32000 + t.timer.timerPeriod.value.toNat < 2 ^ 64) ∧
    (∃ s t : State, s.timer.timerIntEnable = true ∧ s.sched.timer ≤ 32000 ∧
      exec (.wrp .intctl 0x02 32000 false) s = .next t ∧ 32000 + t.timer.timerPeriod.value.toNat < 2 ^ 64) :=
  ⟨⟨0x02, slots 32000 never never, _, by decide, by decide, rfl, by decide⟩,
    ⟨{ slots 32000 never never with timer := { base.timer with timerIntEnable := true } }, _,
      rfl, by decide, rfl, by decide⟩⟩

theorem witness_FaultsLeaveNoTrace :
    (∃ (i : Instr) (s t : State) (f : FaultCode), exec i s = .next t ∧ t.response = .fault f) ∧
    (∃ (i : Instr) (s t : State) (c : Option Action) (d : Byte) (τ : Cycles),
      exec i s = .next t ∧ t.response = .ok c d τ) :=
  ⟨⟨.deq, base, _, _, rfl, rfl⟩, ⟨.nop, base, _, _, _, _, rfl, rfl⟩⟩

theorem witness_FaultRecordIsSticky :
    (∃ s t : State, Reaches s t ∧ s.RunOver) ∧ (∃ s t : State, Reaches s t ∧ t.NoFaultRaised) :=
  ⟨⟨{ issuing 0 with faultLog := [.noEventArmed] }, _, .tail .refl rfl, by unfold State.RunOver; decide⟩,
    ⟨issuing 0, _, .tail .refl rfl, rfl⟩⟩

theorem witness_OnlyDispatchReachesTheCpu : ∃ (i : Instr) (s t : State), exec i s = .next t ∧ ∀ cc, i ≠ .disp cc :=
  ⟨.upd, base, _, rfl, by simp⟩

/-- A delivery with both flags set before, and a command that leaves them set. -/
theorem witness_TheBlockNeverSetsTheInterruptFlags :
    (∃ t, exec (.disp 100) { slots never 100 never with cpu := { CpuRegs.reset with iff := true, halted := true } } =
      .next t) ∧
    (∃ t, exec .nop { base with cpu := { CpuRegs.reset with iff := true, halted := true } } = .next t ∧
      t.cpu.iff = true ∧ t.cpu.halted = true) := ⟨⟨_, rfl⟩, ⟨_, rfl, rfl, rfl⟩⟩

theorem witness_TimerPendingHasOneSetterAndOneClearer :
    (∃ (i : Instr) (s t : State), exec i s = .next t ∧ s.timer.timerPending = false ∧ t.timer.timerPending = true) ∧
    (∃ (i : Instr) (s t : State), exec i s = .next t ∧ s.timer.timerPending = true ∧ t.timer.timerPending = false) :=
  ⟨⟨.disp 13000, slots 13000 13500 never, _, rfl, rfl, by decide⟩,
    ⟨.wrp .status 0x00 0 false, { base with timer := { base.timer with timerPending := true } }, _, rfl, rfl,
      by decide⟩⟩

/-- Each of the changes the statement speaks of does happen. -/
theorem witness_RegistersHaveTheirOwnWriters :
    (∃ t, exec (.wrp .status 0x03 0 false) base = .next t ∧ t.onIntEnable ≠ base.onIntEnable ∧
      t.timer.timerIntEnable ≠ base.timer.timerIntEnable) ∧
    (∃ t, exec (.wrp .intctl 0x06 0 false) base = .next t ∧ t.timer.timerPeriod ≠ base.timer.timerPeriod) ∧
    (∃ t, exec (.wrp .link 0x13 0 false) base = .next t ∧ t.romBankHighBit ≠ base.romBankHighBit ∧
      t.link.localOutput ≠ base.link.localOutput) ∧
    (∃ t, exec (.armtx .endTransmission 4) base = .next t ∧ t.link.bytesLeft ≠ base.link.bytesLeft ∧
      t.link.action ≠ base.link.action ∧ t.link.linkStatus ≠ base.link.linkStatus) ∧
    (∃ t, exec (.wrp .status 0x02 500 false) base = .next t ∧ t.sched.timer ≠ base.sched.timer ∧
      t.sched.nextTime ≠ base.sched.nextTime) ∧
    (∃ t, exec (.sched .interrupt 500) base = .next t ∧ t.sched.interrupt ≠ base.sched.interrupt ∧
      t.sched.nextId ≠ base.sched.nextId) ∧
    (∃ t, exec (.sched .endFrame 500) base = .next t ∧ t.sched.endFrame ≠ base.sched.endFrame) ∧
    (∃ t, exec (.wrp .intctl 0x02 2000 false) base = .next t ∧
      t.timer.timerLastUpdate ≠ base.timer.timerLastUpdate) ∧
    (∃ s t, exec (.rdp .link 0) s = .next t ∧ t.link.xmitOutput ≠ s.link.xmitOutput ∧
      t.link.stepsLeft ≠ s.link.stepsLeft ∧ t.link.acc ≠ s.link.acc) ∧
    (∃ s t, exec .upd s = .next t ∧ t.link.bitsLeft ≠ s.link.bitsLeft ∧ t.queue ≠ s.queue) :=
  ⟨⟨_, rfl, by decide, by decide⟩, ⟨_, rfl, by decide⟩, ⟨_, rfl, by decide, by decide⟩,
    ⟨_, rfl, by decide, by decide, by decide⟩, ⟨_, rfl, by decide, by decide⟩, ⟨_, rfl, by decide, by decide⟩,
    ⟨_, rfl, by decide⟩, ⟨_, rfl, by decide⟩,
    ⟨linked { Link.reset with linkStatus := .receive, stepsLeft := 5, bitsLeft := 8, acc := 0xA5 } [], _,
      rfl, by decide, by decide, by decide⟩,
    ⟨linked { Link.reset with linkStatus := .prepReceive } [0xA5], _, rfl, by decide, by decide⟩⟩

/-- Two states that differ in the timer, the CPU and memory. -/
theorem witness_LinkSideIgnoresTheTimerSide : ∃ (i : Instr) (s s' t t' : State), s.link = s'.link ∧
    s.queue = s'.queue ∧ s.params.queueDepth = s'.params.queueDepth ∧ exec i s = .next t ∧ exec i s' = .next t' ∧
    s ≠ s' :=
  ⟨.upd, base, { slots 1 2 3 with cpu := { CpuRegs.reset with im := 2 }, mem := [(0, 0)] }, _, _, rfl, rfl, rfl, rfl,
    rfl, by decide⟩

/-- `base` meets the invariants, and so a step from it is one the statement speaks of. -/
theorem witness_StepKeepsTheInvariants : ∃ s t : State, s.Inv ∧ step s = .next t := by
  refine ⟨issuing 0xA1000000000000000001#80, _, ⟨⟨rfl, ?_, ?_⟩, ?_, by simp [issuing, base, sampleTable], ?_, rfl⟩, rfl⟩
  · intro e; cases e <;> decide
  · intro e; cases e <;> decide
  · constructor <;> decide
  · intro d h; cases h

theorem witness_ADisabledTimerStaysDisarmed : ∃ s t : State, s.sched.CacheValid ∧ s.DisabledTimerDisarmed ∧
    ¬ s.SchedTimerNext ∧ step s = .next t := by
  refine ⟨issuing 0x440200000000000001F4#80, _, ⟨rfl, ?_, ?_⟩, fun _ => rfl, ?_, rfl⟩
  · intro e; cases e <;> decide
  · intro e; cases e <;> decide
  · rintro ⟨w, rest, time, h, hd⟩
    cases h
    have h2 : decode 0x440200000000000001F4#80 = .ok (.wrp .intctl 0x02 500 false) := by decide
    rw [h2] at hd
    cases hd

theorem witness_StepKeepsMemoryCanonical : ∃ s t : State, s.mem.wf = true ∧ step s = .next t ∧
    t.mem = [(0x0000, 0xAB), (0xFFFF, 0xCD)] :=
  ⟨{ base with mem := [(0xFFFF, 0xCD)], inputs := [.memory 0x0000 0xAB] }, _, by decide, rfl, by decide⟩

/-- The Send step 4, done by a Link write from banked ROM, and the step after it. -/
theorem witness_StepKeepsTheTransportsHistory :
    (∃ s t : State, step s = .next t ∧ s.link.linkStatus = .send ∧ s.link.stepsLeft = 4 ∧ t.link.stepsLeft ≠ 4) ∧
    (∃ s t : State, step s = .next t ∧ s.link.linkStatus = .send ∧ s.link.stepsLeft = 3) ∧
    (∃ s t : State, step s = .next t ∧ s.link.linkStatus = .prepSend ∧ t.link.linkStatus = .send) :=
  ⟨⟨{ issuing 0x48020000000000000000#80 with link := { lastBit 1 with stepsLeft := 4, localOutput := 0b01 } }, _, rfl,
      rfl, rfl, by decide⟩,
    ⟨{ issuing 0x40000000000000000000#80 with
        link := { lastBit 1 with stepsLeft := 3, xmitOutput := 0b10, localOutput := 0b01 } }, _, rfl, rfl, rfl⟩,
    ⟨{ issuing 0x80000000000000000000#80 with link := { Link.reset with linkStatus := .prepSend, bytesLeft := 1 } }, _,
      rfl, rfl, by decide⟩⟩

end Sys2Proof.Tests
end

section
/-! PROOFS of the statements of 00_scope. First, once, what a step is for each form of the next input (R7, R50, R235),
then the three statements from these equations. -/

namespace Sys2Proof.Machine

variable {s : State} {rest : List Input} {w : CommandWord}

/-! ## What a step is, by the next input -/

theorem step_of_inputs_nil (h : s.inputs = []) : step s = .next s := by
  simp only [step, h]

theorem step_of_decode_ok {i : Instr} (h : s.inputs = .command w :: rest) (hd : decode w = .ok i) :
    step s = exec i (s.setInputs rest) := by
  simp only [step, commandOf, h, hd]

/-- R79: a word that does not decode is taken, and the step is the fault it raises. -/
theorem step_of_decode_error {e : Illegal} (h : s.inputs = .command w :: rest) (hd : decode w = .error e) :
    step s = .next ((s.setInputs rest).raise .illegalCommand) := by
  simp only [step, commandOf, h, hd]

theorem step_of_environment {e : Input} (h : s.inputs = e :: rest) (he : ∀ w, e ≠ .command w) :
    step s = .next (applyEnvironment e (s.setInputs rest)) := by
  cases e with
  | command w => exact absurd rfl (he w)
  | cpu | memory | onKey => simp only [step, h]

/-! ## The environment's byte -/

/-- R41: a byte of the memory system is the byte read at its address. `keepsWrite` has no say here, as it has in
`State.memWrite`, the block's own write (log 10). -/
theorem applyEnvironment_memory_memByte (s : State) (a x : Addr) (b : Byte) :
    (applyEnvironment (.memory a b) s).memByte x = if x = a then b else s.memByte x := by
  simp only [applyEnvironment, State.memByte, State.setMem_mem, Memory.read?_write, ← BitVec.toNat_inj]
  split <;> rfl

/-! ## Every command and every step goes on -/

theorem finish_answers_next (s : State) (b : Except FaultCode (State × Response)) : ∃ t, finish s b = .next t := by
  cases b with
  | ok x => exact ⟨_, finish_ok s x.1 x.2⟩
  | error f => exact ⟨_, finish_error s f⟩

theorem exec_answers_next (i : Instr) (s : State) : ∃ t, exec i s = .next t := by
  rw [exec_eq_finish]
  exact finish_answers_next s (body i s)

theorem step_answers_next (s : State) : ∃ t, step s = .next t := by
  cases h : s.inputs with
  | nil => exact ⟨_, step_of_inputs_nil h⟩
  | cons e rest =>
    cases e with
    | command w =>
      cases hd : decode w with
      | ok i => rw [step_of_decode_ok h hd]; exact exec_answers_next i _
      | error e => exact ⟨_, step_of_decode_error h hd⟩
    | cpu | memory | onKey => exact ⟨_, step_of_environment h nofun⟩

/-! ## The statements -/

/-- Settles O4: it is the equation of a step whose next word decodes. -/
theorem stepRunsTheDecodedCommand : Obligations.StepRunsTheDecodedCommand :=
  fun _ _ _ _ h hd => step_of_decode_ok h hd

/-- Settles O5: the equations of a step without a command, and what the environment's byte makes of a read. -/
theorem stepBetweenCommands : Obligations.StepBetweenCommands := by
  intro s rest
  refine ⟨step_of_inputs_nil, fun regs h => ?_, fun p q h => ?_, fun a b h => ?_⟩
  · exact step_of_environment h nofun
  · exact step_of_environment h nofun
  · exact ⟨_, step_of_environment h nofun, rfl, fun x => applyEnvironment_memory_memByte (s.setInputs rest) a x b⟩

/-- Settles O45: every command ends through `finish`, which answers a next state whether or not a fault is raised, and
every other step is a next state by its equation. -/
theorem theBlockNeverHalts : Obligations.TheBlockNeverHalts :=
  ⟨exec_answers_next, step_answers_next⟩

end Sys2Proof.Machine
end

section
/-! PROOFS of the statements of 10_state. First what the shared operations leave alone and what they write, one lemma
per part of the state; then, by cases on `Effect`, who writes what; then the statements. -/

namespace Sys2Proof.Machine

variable {i : Instr} {s s' t t' u : State} {r : Response} {c : Cycles}

/-! ## What a Link write leaves of the link side, before any `Update()` -/

section LinkWritten

variable (v : Byte) (s : State)

@[simp] theorem linkWritten_link : (linkWritten v s).link = { s.link with localOutput := linkWriteLines v } := rfl
@[simp] theorem linkWritten_queue : (linkWritten v s).queue = s.queue := rfl
@[simp] theorem linkWritten_romBankHighBit : (linkWritten v s).romBankHighBit = linkWriteRomBank v := rfl

end LinkWritten

/-! ## The parts a Status write and an Interrupt-control write leave and write -/

section PortWrites

variable (v : Byte) (cc : Cycles) (s : State)

@[simp] theorem writeStatus_link : (writeStatus v cc s).link = s.link := by rw [writeStatus_frame]
@[simp] theorem writeStatus_queue : (writeStatus v cc s).queue = s.queue := by rw [writeStatus_frame]
@[simp] theorem writeStatus_romBankHighBit : (writeStatus v cc s).romBankHighBit = s.romBankHighBit := by
  rw [writeStatus_frame]
@[simp] theorem writeStatus_cpu : (writeStatus v cc s).cpu = s.cpu := by rw [writeStatus_frame]

/-- R183: bit 1 set enables and re-anchors; bit 1 clear disables and acknowledges. -/
theorem writeStatus_timer : (writeStatus v cc s).timer =
    if statusWriteTimerInt v then
      { s.timer with timerIntEnable := true, timerLastUpdate := anchorOf cc s.timer.timerPeriod }
    else { s.timer with timerIntEnable := false, timerPending := false } := by
  cases h : statusWriteTimerInt v <;> simp [writeStatus, h, reanchor_eq]

/-- R183: either way the Timer slot is written, and no other. -/
theorem writeStatus_sched : ∃ time, (writeStatus v cc s).sched = s.sched.arm .timer time := by
  cases h : statusWriteTimerInt v
  · exact ⟨never, by simp [writeStatus, h]⟩
  · exact ⟨anchorOf cc s.timer.timerPeriod + s.timer.timerPeriod.value, by simp [writeStatus, h, reanchor_eq]⟩

@[simp] theorem writeIntctl_link : (writeIntctl v cc s).link = s.link := by rw [writeIntctl_frame]
@[simp] theorem writeIntctl_queue : (writeIntctl v cc s).queue = s.queue := by rw [writeIntctl_frame]
@[simp] theorem writeIntctl_romBankHighBit : (writeIntctl v cc s).romBankHighBit = s.romBankHighBit := by
  rw [writeIntctl_frame]
@[simp] theorem writeIntctl_cpu : (writeIntctl v cc s).cpu = s.cpu := by rw [writeIntctl_frame]
@[simp] theorem writeIntctl_onIntEnable : (writeIntctl v cc s).onIntEnable = s.onIntEnable := by
  rw [writeIntctl_frame]

/-- R184, R186: the new period, and the anchor taken on its grid. -/
theorem writeIntctl_timer : (writeIntctl v cc s).timer =
    { s.timer with
      timerPeriod := periodAt s.params (intctlIndex v)
      timerLastUpdate := anchorOf cc (periodAt s.params (intctlIndex v)) } := by
  simp [writeIntctl, reanchor_eq]

/-- R186: the Timer slot is written where the timer interrupt is enabled, and no other slot is. -/
theorem writeIntctl_sched :
    (writeIntctl v cc s).sched = s.sched ∨ ∃ time, (writeIntctl v cc s).sched = s.sched.arm .timer time := by
  cases h : s.timer.timerIntEnable
  · exact .inl (by simp [writeIntctl, reanchor_eq, h])
  · exact .inr ⟨_, by simp only [writeIntctl, reanchor_eq, State.setTimer_timer, h, if_true]; rfl⟩

end PortWrites

/-! ## The parts a fire leaves and writes -/

namespace Fired

theorem link (h : Fired s t c) : t.link = s.link := by rw [(fired_frame h).1]
theorem queue (h : Fired s t c) : t.queue = s.queue := by rw [(fired_frame h).1]
theorem romBankHighBit (h : Fired s t c) : t.romBankHighBit = s.romBankHighBit := by rw [(fired_frame h).1]
theorem onIntEnable (h : Fired s t c) : t.onIntEnable = s.onIntEnable := by rw [(fired_frame h).1]

/-- R100: of the three cases the Timer's alone writes the timer, cascade or not, and it records the time its slot
held. -/
theorem timer_cases (h : Fired s t c) :
    (s.sched.nextId = .timer ∧
      t.timer = { s.timer with timerPending := true, timerLastUpdate := s.sched.timer }) ∨
    t.timer = s.timer := by
  cases h with
  | timer hid => exact .inl ⟨hid, rfl⟩
  | cascade hid => rw [afterDelivery_eq]; exact .inl ⟨hid, rfl⟩
  | interrupt => rw [afterDelivery_eq]; exact .inr rfl
  | endFrame => exact .inr rfl

end Fired

/-! ## The interrupt flags -/

/-- R30, R31: from the CPU's registers `c` to `d`, `im` and `i` are left, and no flag is set. -/
structure CpuRegs.FlagsNotSet (c d : CpuRegs) : Prop where
  im : d.im = c.im
  i : d.i = c.i
  iff : d.iff = true → c.iff = true
  halted : d.halted = true → c.halted = true

namespace CpuRegs.FlagsNotSet

theorem refl (c : CpuRegs) : c.FlagsNotSet c := ⟨rfl, rfl, id, id⟩

/-- A delivery clears both flags, and its modes write `pc` and `sp` alone (R103 to R106). -/
theorem of_delivery (s : State) : s.cpu.FlagsNotSet s.byMode.1.cpu.afterDelivery := by
  rw [State.byMode_cpu]
  exact ⟨rfl, rfl, nofun, nofun⟩

theorem of_fired (h : Fired s t c) : s.cpu.FlagsNotSet t.cpu := by
  cases h with
  | timer | endFrame => exact refl _
  | cascade => rw [afterDelivery_eq]; exact of_delivery (timerFired s)
  | interrupt => rw [afterDelivery_eq]; exact of_delivery s

/-- DISP alone reaches the CPU's registers. -/
theorem of_effect (h : Effect s i u r) : s.cpu.FlagsNotSet (u.respond r).cpu := by
  rw [State.respond_cpu]
  cases h with
  | disp _ _ _ _ _ hf => exact of_fired hf
  | wrpStatus v cc => rw [writeStatus_cpu]; exact refl _
  | wrpIntctl v cc => rw [writeIntctl_cpu]; exact refl _
  | _ => exact refl _

end CpuRegs.FlagsNotSet

/-! ## Who writes the timer side -/

/-- R10 to R17: the writers of the event table, the timer and `onIntEnable`. -/
structure TimerSideWriters (i : Instr) (s t : State) : Prop where
  enables : t.onIntEnable ≠ s.onIntEnable ∨ t.timer.timerIntEnable ≠ s.timer.timerIntEnable →
    ∃ v cc rom, i = .wrp .status v cc rom
  period : t.timer.timerPeriod ≠ s.timer.timerPeriod → ∃ v cc rom, i = .wrp .intctl v cc rom
  timerSlot : t.sched.timer ≠ s.sched.timer → (∃ time, i = .sched .timer time) ∨ (∃ cc, i = .disp cc) ∨
    (∃ v cc rom, i = .wrp .status v cc rom) ∨ ∃ v cc rom, i = .wrp .intctl v cc rom
  interruptSlot : t.sched.interrupt ≠ s.sched.interrupt → (∃ time, i = .sched .interrupt time) ∨ ∃ cc, i = .disp cc
  endFrameSlot : t.sched.endFrame ≠ s.sched.endFrame → (∃ time, i = .sched .endFrame time) ∨ ∃ cc, i = .disp cc
  cache : t.sched.nextId ≠ s.sched.nextId ∨ t.sched.nextTime ≠ s.sched.nextTime →
    (∃ e time, i = .sched e time) ∨ (∃ cc, i = .disp cc) ∨
    (∃ v cc rom, i = .wrp .status v cc rom) ∨ ∃ v cc rom, i = .wrp .intctl v cc rom
  anchor : t.timer.timerLastUpdate ≠ s.timer.timerLastUpdate → (∃ cc, i = .disp cc) ∨
    (∃ v cc rom, i = .wrp .status v cc rom) ∨ ∃ v cc rom, i = .wrp .intctl v cc rom

namespace TimerSideWriters

theorem of_kept (hs : t.sched = s.sched) (ht : t.timer = s.timer) (ho : t.onIntEnable = s.onIntEnable) :
    TimerSideWriters i s t := by
  constructor <;> simp [hs, ht, ho]

theorem of_effect (h : Effect s i u r) : TimerSideWriters i s (u.respond r) := by
  cases h with
  | sched e time => cases e <;> constructor <;> simp
  | disp cc u cost _ _ hf =>
    obtain ⟨-, hen, hper⟩ := fired_frame hf
    constructor <;> simp [hf.onIntEnable, hen, hper]
  | wrpStatus v cc rom =>
    obtain ⟨time, hs⟩ := writeStatus_sched v cc s
    have hp : (writeStatus v cc s).timer.timerPeriod = s.timer.timerPeriod := by
      rw [writeStatus_timer]; split <;> rfl
    constructor <;> simp [hs, hp]
  | wrpIntctl v cc rom =>
    obtain hs | ⟨time, hs⟩ := writeIntctl_sched v cc s <;> constructor <;> simp [hs, writeIntctl_timer]
  | _ => exact of_kept rfl rfl rfl

end TimerSideWriters

/-! ## Who sets and who clears `timerPending` -/

/-- R13: the writers of `timerPending`, by the direction of the change. -/
structure TimerPendingWriters (i : Instr) (s t : State) : Prop where
  setter : s.timer.timerPending = false → t.timer.timerPending = true →
    (∃ cc, i = .disp cc) ∧ s.sched.nextId = .timer ∧ t.timer.timerLastUpdate = s.sched.timer
  clearer : s.timer.timerPending = true → t.timer.timerPending = false →
    ∃ v cc rom, i = .wrp .status v cc rom ∧ v.getLsbD 1 = false

namespace TimerPendingWriters

theorem of_kept (h : t.timer.timerPending = s.timer.timerPending) : TimerPendingWriters i s t := by
  constructor <;> simp_all

theorem of_effect (h : Effect s i u r) : TimerPendingWriters i s (u.respond r) := by
  cases h with
  | disp cc u cost _ _ hf =>
    obtain ⟨hid, ht⟩ | ht := hf.timer_cases
    · exact ⟨fun _ _ => ⟨⟨cc, rfl⟩, hid, by simp [ht]⟩, by simp [ht]⟩
    · exact of_kept (by simp [ht])
  | wrpStatus v cc rom =>
    cases hv : statusWriteTimerInt v
    · exact ⟨by simp [writeStatus_timer, hv], fun _ _ => ⟨v, cc, rom, rfl, hv⟩⟩
    · exact of_kept (by simp [writeStatus_timer, hv])
  | wrpIntctl v cc rom => exact of_kept (by simp [writeIntctl_timer])
  | _ => exact of_kept rfl

end TimerPendingWriters

/-! ## Who writes the link side -/

/-- R134: an `Update()` that changes the action is a completion, and presents the action it takes away. -/
theorem updateLink_action {depth : Option Nat} {l : Link} {q : List Byte} {x : LinkResult}
    (h : updateLink depth l q = .ok x) : x.link.action = l.action ∨ x.completed = some l.action := by
  cases updateLink_row h with
  | receive1Done | send1Done => exact .inr rfl
  | _ => exact .inl rfl

/-- R133: an `Update()` counts `bytesLeft` in Send alone. -/
theorem updateLink_bytesLeft {depth : Option Nat} {l : Link} {q : List Byte} {x : LinkResult}
    (h : updateLink depth l q = .ok x) : x.link.bytesLeft = l.bytesLeft ∨ l.linkStatus = .send := by
  cases updateLink_row h with
  | send1Byte hs | send1Done hs => exact .inr hs
  | _ => exact .inl rfl

/-- R18 to R28, R37, R140: the writers of the link transport, of the queue and of `romBankHighBit`. -/
structure LinkSideWriters (i : Instr) (s t : State) : Prop where
  driver : t.romBankHighBit ≠ s.romBankHighBit ∨ t.link.localOutput ≠ s.link.localOutput →
    ∃ v cc rom, i = .wrp .link v cc rom
  bytesLeft : t.link.bytesLeft ≠ s.link.bytesLeft → (∃ a n, i = .armtx a n) ∨ s.link.linkStatus = .send
  action : t.link.action ≠ s.link.action → (∃ a, i = .armrx a) ∨ (∃ a n, i = .armtx a n) ∨ (∃ a, i = .setact a) ∨
    ∃ d, t.response = .ok (some s.link.action) d 0
  position : t.link.xmitOutput ≠ s.link.xmitOutput ∨ t.link.stepsLeft ≠ s.link.stepsLeft ∨
    t.link.bitsLeft ≠ s.link.bitsLeft ∨ t.link.acc ≠ s.link.acc → RunsUpdate i s
  status : t.link.linkStatus ≠ s.link.linkStatus → RunsUpdate i s ∨ (∃ a, i = .armrx a) ∨ ∃ a n, i = .armtx a n
  queue : t.queue ≠ s.queue → RunsUpdate i s ∨ (∃ b, i = .enq b) ∨ i = .deq ∨ i = .clr

namespace LinkSideWriters

theorem of_kept (hl : t.link = s.link) (hq : t.queue = s.queue) (hb : t.romBankHighBit = s.romBankHighBit) :
    LinkSideWriters i s t := by
  constructor <;> simp [hl, hq, hb]

/-- R140: a command in which an `Update()` happens, after the CPU side's driver was set to `v`. -/
theorem of_update {v : BitVec 2} {d : Byte} {x : LinkResult} (hi : RunsUpdate i s)
    (hx : updateLink s.params.queueDepth { s.link with localOutput := v } s.queue = .ok x)
    (hl : t.link = x.link) (hr : t.response = .ok x.completed d 0)
    (hw : t.romBankHighBit ≠ s.romBankHighBit ∨ v ≠ s.link.localOutput → ∃ v cc rom, i = .wrp .link v cc rom) :
    LinkSideWriters i s t where
  driver := by rw [hl, updateLink_localOutput hx]; exact hw
  bytesLeft hne := .inr ((updateLink_bytesLeft hx).resolve_left (hl ▸ hne))
  action hne := by
    have hc : x.completed = some s.link.action := (updateLink_action hx).resolve_left (hl ▸ hne)
    exact .inr (.inr (.inr ⟨d, hc ▸ hr⟩))
  position _ := hi
  status _ := .inl hi
  queue _ := .inl hi

theorem of_effect (h : Effect s i u r) : LinkSideWriters i s (u.respond r) := by
  cases h with
  | rdpLink cc x hx => exact of_update (.inr (.inl ⟨cc, rfl⟩)) hx rfl rfl (by simp)
  | upd x hx => exact of_update (.inl rfl) hx rfl rfl (by simp)
  | wrpLinkUpdate v cc x ha hx =>
    exact of_update (.inr (.inr ⟨ha, v, cc, rfl⟩)) hx rfl rfl fun _ => ⟨v, cc, true, rfl⟩
  | disp cc u cost _ _ hf => exact of_kept hf.link hf.queue hf.romBankHighBit
  | wrpStatus v cc =>
    exact of_kept (writeStatus_link v cc s) (writeStatus_queue v cc s) (writeStatus_romBankHighBit v cc s)
  | wrpIntctl v cc =>
    exact of_kept (writeIntctl_link v cc s) (writeIntctl_queue v cc s) (writeIntctl_romBankHighBit v cc s)
  | nop | sched | rdpStatus => exact of_kept rfl rfl rfl
  | wrpLink | enq | deq | clr | armrx | armtx | setact => constructor <;> simp

end LinkSideWriters

/-! ## The link side does not learn from the rest -/

/-- Where a fire has one of its cases, `fire` answers it: the converse of `fire_ok`. -/
theorem fire_of_fired (h : Fired s t c) : fire s = .ok (t, c) := by
  cases h with
  | timer hid hc => simp only [fire, hid, fireTimer, hc, Bool.false_eq_true, if_false]
  | cascade hid hc him =>
    have hd : (timerFired s).deliverInterrupt = _ := (timerFired s).deliverInterrupt_eq.trans (if_neg him)
    have hb : badMode s.cpu = false := by simpa [badMode] using him
    simp only [fire, hid, fireTimer, hc, if_true, hb, Bool.false_eq_true, if_false, hd]
  | interrupt hid him =>
    simp only [fire, hid, fireInterrupt]
    exact s.deliverInterrupt_eq.trans (if_neg him)
  | endFrame hid => simp only [fire, hid, fireEndFrame]

/-- Where a command has its effect, it ends with it: the converse of `exec_effect`. -/
theorem exec_of_effect (h : Effect s i u r) : exec i s = .next (u.respond r) := by
  rw [exec_eq_finish]
  suffices hb : body i s = .ok (u, r) by rw [hb, finish_ok]
  cases h with
  | disp cc u cost h1 h2 hf => simp [body, dispatch, h1, h2, fire_of_fired hf]
  | rdpLink cc x hx | upd x hx => simp [body, readPort, readLink, State.update, hx]
  | wrpLink v cc rom hq => obtain hq | hq := hq <;> simp [body, writePort, writeLink, Link.active, hq]
  | wrpLinkUpdate v cc x ha hx =>
    have hu := (update_ok_iff (linkWritten v s) _ _).2 ⟨x, hx, rfl, rfl⟩
    simp [body, writePort, writeLink, Link.active, ha, hu]
  | enq b hq => simp [body, enqueue, hq]
  | deq b rest hq => simp [body, dequeue, hq]
  | armrx a h1 h2 => simp [body, h1, h2]
  | armtx a n h1 h2 => simp [body, h1, h2]
  | nop | sched | rdpStatus | wrpStatus | wrpIntctl | clr | setact => rfl

/-- R37: what the link side is made of, the queue's depth included. -/
structure LinkSideAgrees (s s' : State) : Prop where
  link : s.link = s'.link
  queue : s.queue = s'.queue
  depth : s.params.queueDepth = s'.params.queueDepth

theorem LinkSideAgrees.symm (h : LinkSideAgrees s s') : LinkSideAgrees s' s := ⟨h.link.symm, h.queue.symm, h.depth.symm⟩

/-- R37, R111: a command that raises nothing either leaves the transport and the queue, or it raises nothing in every
state whose link side agrees and does the same to the transport and the queue there. -/
theorem Effect.kept_or_same_on_linkSide (h : Effect s i u r) (ha : LinkSideAgrees s s') :
    (u.link = s.link ∧ u.queue = s.queue) ∨ ∃ u' r', Effect s' i u' r' ∧ u.link = u'.link ∧ u.queue = u'.queue := by
  obtain ⟨hl, hq, hd⟩ := ha
  cases h with
  | nop | sched | rdpStatus => exact .inl ⟨rfl, rfl⟩
  | disp cc u cost _ _ hf => exact .inl ⟨hf.link, hf.queue⟩
  | wrpStatus v cc => exact .inl ⟨writeStatus_link v cc s, writeStatus_queue v cc s⟩
  | wrpIntctl v cc => exact .inl ⟨writeIntctl_link v cc s, writeIntctl_queue v cc s⟩
  | rdpLink cc x hx => exact .inr ⟨_, _, .rdpLink cc x (by rwa [← hl, ← hq, ← hd]), rfl, rfl⟩
  | upd x hx => exact .inr ⟨_, _, .upd x (by rwa [← hl, ← hq, ← hd]), rfl, rfl⟩
  | wrpLink v cc rom hw => exact .inr ⟨_, _, .wrpLink v cc rom (by rwa [← hl]), by simp [hl], hq⟩
  | wrpLinkUpdate v cc x hw hx =>
    exact .inr ⟨_, _, .wrpLinkUpdate v cc x (by rwa [← hl]) (by rwa [← hl, ← hq, ← hd]), rfl, rfl⟩
  | enq b hf => exact .inr ⟨_, _, .enq b (by rwa [← hq, ← hd]), hl, by simp [hq]⟩
  | deq b rest hb => exact .inr ⟨_, _, .deq b rest (by rwa [← hq]), hl, rfl⟩
  | clr => exact .inr ⟨_, _, .clr, hl, rfl⟩
  | armrx a hi hn => exact .inr ⟨_, _, .armrx a (by rwa [← hl]) (by rwa [← hq]), by simp [hl], hq⟩
  | armtx a n hi hn => exact .inr ⟨_, _, .armtx a n (by rwa [← hl]) hn, by simp [hl], hq⟩
  | setact a => exact .inr ⟨_, _, .setact a, by simp [hl], hq⟩

/-- The same of every command: one that faults leaves its own link side too (R201). -/
theorem LinkSideAgrees.kept_or_eq (ha : LinkSideAgrees s s') (h : exec i s = .next t) (h' : exec i s' = .next t') :
    (t.link = s.link ∧ t.queue = s.queue) ∨ (t.link = t'.link ∧ t.queue = t'.queue) := by
  obtain ⟨u, r, he, rfl⟩ | ⟨f, -, rfl⟩ := exec_effect h
  · obtain hk | ⟨u', r', he', hl, hq⟩ := he.kept_or_same_on_linkSide ha
    · exact .inl hk
    · rw [exec_of_effect he'] at h'
      cases h'
      exact .inr ⟨hl, hq⟩
  · exact .inl ⟨rfl, rfl⟩

/-! ## What no command changes -/

/-- R4, R7, R32: no command, faulting or not, changes the parameters, the inputs still to come or the ON-key signals. -/
theorem exec_keeps_environment (h : exec i s = .next t) :
    t.params = s.params ∧ t.inputs = s.inputs ∧ t.onPressed = s.onPressed ∧ t.onPending = s.onPending := by
  obtain ⟨u, r, hb, rfl⟩ | ⟨f, -, rfl⟩ := exec_next_cases h
  · exact (body_ok_keeps hb).2.2
  · exact ⟨rfl, rfl, rfl, rfl⟩

/-! ## The statements -/

/-- Settles O23: bit by bit, the wired OR of the two drivers is inverted (R25). -/
theorem lineStateIsTheWiredOr : Obligations.LineStateIsTheWiredOr := by
  intro l i hi
  obtain rfl | rfl : i = 0 ∨ i = 1 := by omega
  all_goals simp [Link.lineState]

/-- Settles O49: by cases on what a command can do, and a fault leaves the CPU's registers. -/
theorem theBlockNeverSetsTheInterruptFlags : Obligations.TheBlockNeverSetsTheInterruptFlags := by
  intro i s t h
  have hf : s.cpu.FlagsNotSet t.cpu := by
    obtain ⟨u, r, he, rfl⟩ | ⟨f, -, rfl⟩ := exec_effect h
    · exact .of_effect he
    · exact .refl _
  exact ⟨hf.im, hf.i, hf.iff, hf.halted⟩

/-- Settles O50: the Timer case of DISP is the one setter and the acknowledging Status write the one clearer. -/
theorem timerPendingHasOneSetterAndOneClearer : Obligations.TimerPendingHasOneSetterAndOneClearer := by
  intro i s t h
  have hw : TimerPendingWriters i s t := by
    obtain ⟨u, r, he, rfl⟩ | ⟨f, -, rfl⟩ := exec_effect h
    · exact .of_effect he
    · exact .of_kept rfl
  exact ⟨hw.setter, hw.clearer⟩

/-- Settles O51: the writers of the timer side and of the link side, each by cases on what a command can do; a fault
writes neither. -/
theorem registersHaveTheirOwnWriters : Obligations.RegistersHaveTheirOwnWriters := by
  intro i s t h
  obtain ⟨ht, hl⟩ : TimerSideWriters i s t ∧ LinkSideWriters i s t := by
    obtain ⟨u, r, he, rfl⟩ | ⟨f, -, rfl⟩ := exec_effect h
    · exact ⟨.of_effect he, .of_effect he⟩
    · exact ⟨.of_kept rfl rfl rfl, .of_kept rfl rfl rfl⟩
  exact ⟨ht.enables, ht.period, hl.driver, hl.bytesLeft, hl.action, ht.timerSlot, ht.interruptSlot, ht.endFrameSlot,
    ht.cache, ht.anchor, hl.position, hl.status, hl.queue, exec_keeps_environment h⟩

/-- Settles O52: if either command changes its link side the two sides end equal; if neither does they stay equal. -/
theorem linkSideIgnoresTheTimerSide : Obligations.LinkSideIgnoresTheTimerSide := by
  intro i s s' t t' hl hq hd h h'
  have ha : LinkSideAgrees s s' := ⟨hl, hq, hd⟩
  obtain ⟨hkl, hkq⟩ | heq := ha.kept_or_eq h h'
  · obtain ⟨hkl', hkq'⟩ | heq := ha.symm.kept_or_eq h' h
    · exact ⟨by rw [hkl, hkl', hl], by rw [hkq, hkq', hq]⟩
    · exact ⟨heq.1.symm, heq.2.symm⟩
  · exact heq

end Sys2Proof.Machine
end

section
/-! PROOFS of the statements of 20_memory. Of the commands DISP alone reaches the CPU side, and memory is written by its
pushes and by the environment alone, each of which keeps the canonical form. -/

namespace Sys2Proof.Machine

variable {i : Instr} {s t u : State} {r : Response} {c : Cycles}

/-! ## What a command that is not DISP leaves of the CPU side -/

/-- R29, R40: from `s` to `t` the CPU's registers, CPU memory and the record of its accesses are left. -/
structure CpuSideKept (s t : State) : Prop where
  cpu : t.cpu = s.cpu
  mem : t.mem = s.mem
  busLog : t.busLog = s.busLog

/-- The byte read at an address is a matter of memory alone (R41). -/
theorem CpuSideKept.memByte (h : CpuSideKept s t) (a : Addr) : t.memByte a = s.memByte a := by
  simp only [State.memByte, h.mem]

theorem Effect.cpuSideKept (h : Effect s i u r) (hi : ∀ cc, i ≠ .disp cc) : CpuSideKept s u := by
  cases h with
  | disp cc => exact absurd rfl (hi cc)
  | wrpStatus => rw [writeStatus_frame]; exact ⟨rfl, rfl, rfl⟩
  | wrpIntctl => rw [writeIntctl_frame]; exact ⟨rfl, rfl, rfl⟩
  | _ => exact ⟨rfl, rfl, rfl⟩

/-- A fault leaves the CPU side too (R201). -/
theorem exec_cpuSideKept (h : exec i s = .next t) (hi : ∀ cc, i ≠ .disp cc) : CpuSideKept s t := by
  obtain ⟨u, r, he, rfl⟩ | ⟨f, -, rfl⟩ := exec_effect h
  · obtain ⟨hcpu, hmem, hlog⟩ := he.cpuSideKept hi
    exact ⟨hcpu, hmem, hlog⟩
  · exact ⟨rfl, rfl, rfl⟩

/-! ## The canonical form of memory -/

/-- Of the cases of a fire only a delivery writes memory, and it does so by its pushes (R104, R105). -/
theorem Fired.mem_wf (hf : Fired s t c) (h : s.mem.wf = true) : t.mem.wf = true := by
  cases hf with
  | timer | endFrame => exact h
  | cascade => rw [afterDelivery_eq]; exact (timerFired s).byMode_wf h
  | interrupt => rw [afterDelivery_eq]; exact s.byMode_wf h

theorem Effect.mem_wf (he : Effect s i u r) (h : s.mem.wf = true) : u.mem.wf = true := by
  by_cases hi : ∃ cc, i = .disp cc
  · obtain ⟨cc, rfl⟩ := hi
    cases he with
    | disp _ _ _ _ _ hf => exact hf.mem_wf h
  · rw [(he.cpuSideKept (not_exists.1 hi)).mem]
    exact h

theorem exec_mem_wf (he : exec i s = .next t) (h : s.mem.wf = true) : t.mem.wf = true := by
  obtain ⟨u, r, heff, rfl⟩ | ⟨f, -, rfl⟩ := exec_effect he
  · exact heff.mem_wf h
  · exact h

/-- R41: the environment's byte comes at a 16-bit address. -/
theorem applyEnvironment_mem_wf (e : Input) (h : s.mem.wf = true) : (applyEnvironment e s).mem.wf = true := by
  cases e with
  | memory a b => exact Memory.wf_write s.mem a.toNat b a.isLt h
  | command | cpu | onKey => exact h

/-! ## The statements -/

/-- Settles O48: by cases on what a command can do, and a fault leaves the CPU side. -/
theorem onlyDispatchReachesTheCpu : Obligations.OnlyDispatchReachesTheCpu := by
  intro i s t h hi
  have hk : CpuSideKept s t := exec_cpuSideKept h hi
  exact ⟨hk.cpu, hk.busLog, hk.memByte⟩

/-- Settles O55: by cases on what a step can be; a command and the environment each keep the form. -/
theorem stepKeepsMemoryCanonical : Obligations.StepKeepsMemoryCanonical := by
  intro s t h hs
  obtain ⟨-, rfl⟩ | ⟨w, rest, i, -, -, he⟩ | ⟨w, rest, e, -, -, rfl⟩ | ⟨e, rest, -, rfl, -⟩ := step_cases hs
  · exact h
  · exact exec_mem_wf he h
  · exact h
  · exact applyEnvironment_mem_wf e h

end Sys2Proof.Machine
end

section
/-! PROOFS of the statements of 30_encoding. The hub is `decode_eq_ok_iff`: a word decodes to a command exactly when its
fields are that command's. Both round trips are read off it; legality (R79) and the opcode table are then compared with
the decoder field by field. The response word is read back through the same four fields. -/

namespace Sys2Proof

variable {c : RawCommand} {i j : Instr} {w : CommandWord}

/-! ## The parts of a select and of a time, put together and read back -/

section Parts

variable (b : BitVec 1) (p : BitVec 3) (x y : BitVec 2) (hi lo : BitVec 32) (sel : BitVec 4) (t : Cycles)

@[simp] theorem selectBit3_append : (b ++ p : BitVec 4).extractLsb' 3 1 = b := BitVec.extractLsb'_append_eq_left
@[simp] theorem selectLow3_append : (b ++ p : BitVec 4).extractLsb' 0 3 = p := BitVec.extractLsb'_append_eq_right
@[simp] theorem selectHigh2_append : (x ++ y : BitVec 4).extractLsb' 2 2 = x := BitVec.extractLsb'_append_eq_left
@[simp] theorem selectLow2_append : (x ++ y : BitVec 4).extractLsb' 0 2 = y := BitVec.extractLsb'_append_eq_right
@[simp] theorem timeHigh_append : (hi ++ lo : Cycles).extractLsb' 32 32 = hi := BitVec.extractLsb'_append_eq_left
@[simp] theorem timeLow_append : (hi ++ lo : Cycles).extractLsb' 0 32 = lo := BitVec.extractLsb'_append_eq_right

theorem timeHigh_append_timeLow : t.extractLsb' 32 32 ++ t.extractLsb' 0 32 = t :=
  BitVec.extractLsb'_append_extractLsb' (w := 32) (len := 32)

/-- R61, R68: a select is the bit `inBankedRom` and the port it names. -/
theorem romBit_append_port :
    BitVec.ofBool (sel.extractLsb' 3 1 == 1#1) ++ (Port.ofBits (sel.extractLsb' 0 3)).bits = sel := by
  revert sel; decide

end Parts

/-- R61: a select with bit 3 clear is the one of the port it names. -/
theorem zero_append_port {sel : BitVec 4} (h : sel.extractLsb' 3 1 = 0#1) :
    0#1 ++ (Port.ofBits (sel.extractLsb' 0 3)).bits = sel := by
  revert sel; decide

/-- R62: a time with a zero high half is the one of its low half. -/
theorem zero_append_timeLow {t : Cycles} (h : t.extractLsb' 32 32 = 0#32) : 0#32 ++ t.extractLsb' 0 32 = t := by
  rw [← h, timeHigh_append_timeLow]

/-! ## The event and the action operand -/

theorem eventOperand_eq_ok_iff (sel : BitVec 4) (e : EventId) : eventOperand sel = .ok e ↔ sel = 0#2 ++ e.bits := by
  revert sel; cases e <;> decide

theorem actionOperand_eq_ok_iff (sel : BitVec 4) (a : Action) : actionOperand sel = .ok a ↔ sel = 0#1 ++ a.bits := by
  revert sel; cases a <;> decide

theorem EventId.eq_three_of_ofBits_eq_none {b : BitVec 2} (h : EventId.ofBits b = none) : b = 3 := by
  revert b; decide

theorem Action.eq_seven_of_ofBits_eq_none {b : BitVec 3} (h : Action.ofBits b = none) : b = 7 := by
  revert b; decide

theorem exists_eventOperand_ok {sel : BitVec 4} (hz : sel.extractLsb' 2 2 = 0) (h3 : sel.extractLsb' 0 2 ≠ 3) :
    ∃ e, eventOperand sel = .ok e := by
  obtain ⟨e, he⟩ := Option.ne_none_iff_exists'.1 (mt EventId.eq_three_of_ofBits_eq_none h3)
  exact ⟨e, by simp [eventOperand, hz, he]⟩

theorem exists_actionOperand_ok {sel : BitVec 4} (hz : sel.extractLsb' 3 1 = 0) (h7 : sel.extractLsb' 0 3 ≠ 7) :
    ∃ a, actionOperand sel = .ok a := by
  obtain ⟨a, ha⟩ := Option.ne_none_iff_exists'.1 (mt Action.eq_seven_of_ofBits_eq_none h7)
  exact ⟨a, by simp [actionOperand, hz, ha]⟩

/-! ## A row of the decoder accepts the fields of its own commands alone -/

theorem map_eq_ok_iff {ε α β : Type} (f : α → β) (x : Except ε α) (y : β) :
    x.map f = .ok y ↔ ∃ a, x = .ok a ∧ f a = y := by
  cases x <;> simp [Except.map]

theorem plain_ok (h : plain c i = .ok j) : i = j ∧ c = ⟨c.op, 0, 0, 0⟩ := by
  obtain ⟨op, sel, data, time⟩ := c
  unfold plain at h
  split at h <;> simp_all

theorem decodeSched_ok (hop : c.op = 0x1#4) (h : decodeSched c = .ok i) : c = i.fields := by
  obtain ⟨op, sel, data, time⟩ := c
  unfold decodeSched at h
  split at h
  · cases h
  · obtain ⟨e, he, rfl⟩ := (map_eq_ok_iff ..).1 h
    simp_all [Instr.fields, eventOperand_eq_ok_iff]

theorem decodeDisp_ok (hop : c.op = 0x2#4) (h : decodeDisp c = .ok i) : c = i.fields := by
  obtain ⟨op, sel, data, time⟩ := c
  unfold decodeDisp at h
  split at h <;> cases h
  simp_all [Instr.fields]

theorem decodeRdp_ok (hop : c.op = 0x3#4) (h : decodeRdp c = .ok i) : c = i.fields := by
  obtain ⟨op, sel, data, time⟩ := c
  unfold decodeRdp at h
  split at h <;> cases h
  rename_i hz
  simp_all [Instr.fields, zero_append_port hz.1]

theorem decodeWrp_ok (hop : c.op = 0x4#4) (h : decodeWrp c = .ok i) : c = i.fields := by
  obtain ⟨op, sel, data, time⟩ := c
  cases h
  simp_all [Instr.fields, romBit_append_port]

theorem decodeEnq_ok (hop : c.op = 0x5#4) (h : decodeEnq c = .ok i) : c = i.fields := by
  obtain ⟨op, sel, data, time⟩ := c
  unfold decodeEnq at h
  split at h <;> cases h
  simp_all [Instr.fields]

theorem decodeArmrx_ok (hop : c.op = 0x9#4) (h : decodeArmrx c = .ok i) : c = i.fields := by
  obtain ⟨op, sel, data, time⟩ := c
  unfold decodeArmrx at h
  split at h
  · cases h
  · obtain ⟨a, ha, rfl⟩ := (map_eq_ok_iff ..).1 h
    simp_all [Instr.fields, actionOperand_eq_ok_iff]

theorem decodeArmtx_ok (hop : c.op = 0xA#4) (h : decodeArmtx c = .ok i) : c = i.fields := by
  obtain ⟨op, sel, data, time⟩ := c
  unfold decodeArmtx at h
  split at h
  · cases h
  · obtain ⟨a, ha, rfl⟩ := (map_eq_ok_iff ..).1 h
    simp_all [Instr.fields, actionOperand_eq_ok_iff, zero_append_timeLow]

theorem decodeSetact_ok (hop : c.op = 0xB#4) (h : decodeSetact c = .ok i) : c = i.fields := by
  obtain ⟨op, sel, data, time⟩ := c
  unfold decodeSetact at h
  split at h
  · cases h
  · obtain ⟨a, ha, rfl⟩ := (map_eq_ok_iff ..).1 h
    simp_all [Instr.fields, actionOperand_eq_ok_iff]

/-! ## The decoder, and the round trips -/

/-- The branch `h_n` is the one of `op` = n - 1, the last the one of the reserved ops; the four left to the end have no
operands. -/
theorem decodeFields_ok (h : decodeFields c = .ok i) : c = i.fields := by
  unfold decodeFields at h
  split at h
  case h_2 hop => exact decodeSched_ok hop h
  case h_3 hop => exact decodeDisp_ok hop h
  case h_4 hop => exact decodeRdp_ok hop h
  case h_5 hop => exact decodeWrp_ok hop h
  case h_6 hop => exact decodeEnq_ok hop h
  case h_10 hop => exact decodeArmrx_ok hop h
  case h_11 hop => exact decodeArmtx_ok hop h
  case h_12 hop => exact decodeSetact_ok hop h
  case h_13 => cases h
  all_goals
    obtain ⟨rfl, hc⟩ := plain_ok h
    rw [hc, ‹c.op = _›]; rfl

theorem decodeFields_fields (i : Instr) : decodeFields i.fields = .ok i := by
  cases i with
  | sched e t =>
    have he := (eventOperand_eq_ok_iff (0#2 ++ e.bits) e).2 rfl
    simp [Instr.fields, decodeFields, decodeSched, he, Except.map]
  | rdp p cc => simp [Instr.fields, decodeFields, decodeRdp]
  | wrp p v cc rom => cases rom <;> simp [Instr.fields, decodeFields, decodeWrp]
  | armrx a | setact a => cases a <;> rfl
  | armtx a n =>
    have ha := (actionOperand_eq_ok_iff (0#1 ++ a.bits) a).2 rfl
    simp [Instr.fields, decodeFields, decodeArmtx, ha, Except.map]
  | nop | disp | enq | deq | clr | upd => rfl

theorem decode_eq_ok_iff : decode w = .ok i ↔ fieldsOf w = i.fields :=
  ⟨decodeFields_ok, fun h => (congrArg decodeFields h).trans (decodeFields_fields i)⟩

theorem decode_encode (i : Instr) : decode (encode i) = .ok i := decode_eq_ok_iff.2 (fieldsOf_word i.fields)

theorem encode_of_decode (h : decode w = .ok i) : encode i = w := by
  rw [encode, ← decode_eq_ok_iff.1 h, word_fieldsOf]

/-! ## Legality -/

/-- R79: where none of the four clauses holds, the decoder's branch for the op (numbered as in `decodeFields_ok`) finds
every field it tests zero and every operand it reads. -/
theorem decodeFields_of_legal (h : c.legal = true) : ∃ i, decodeFields c = .ok i := by
  simp only [RawCommand.legal, Bool.and_eq_true] at h
  obtain ⟨⟨⟨⟨⟨hdef, hsel⟩, hdata⟩, htime⟩, hevent⟩, haction⟩ := h
  unfold decodeFields
  split
  case h_13 =>
    simp only [RawCommand.opDefined, decide_eq_true_eq] at hdef
    simp only [imp_false] at *
    bv_omega
  all_goals
    simp [RawCommand.unusedSelZero, RawCommand.unusedDataZero, RawCommand.unusedTimeZero, RawCommand.eventExists,
      RawCommand.actionExists, ‹c.op = _›] at hsel hdata htime hevent haction
  case h_2 =>
    obtain ⟨e, he⟩ := exists_eventOperand_ok hsel hevent
    exact ⟨.sched e c.time, by simp [decodeSched, hdata, he, Except.map]⟩
  case h_3 => exact ⟨_, if_pos ⟨hsel, hdata⟩⟩
  case h_4 => exact ⟨_, if_pos ⟨hsel, hdata⟩⟩
  case h_5 => exact ⟨_, rfl⟩
  case h_6 => exact ⟨_, if_pos ⟨hsel, htime⟩⟩
  case h_10 =>
    obtain ⟨a, ha⟩ := exists_actionOperand_ok hsel haction
    exact ⟨.armrx a, by simp [decodeArmrx, hdata, htime, ha, Except.map]⟩
  case h_11 =>
    obtain ⟨a, ha⟩ := exists_actionOperand_ok hsel haction
    exact ⟨.armtx a (c.time.extractLsb' 0 32), by simp [decodeArmtx, hdata, htime, ha, Except.map]⟩
  case h_12 =>
    obtain ⟨a, ha⟩ := exists_actionOperand_ok hsel haction
    exact ⟨.setact a, by simp [decodeSetact, hdata, htime, ha, Except.map]⟩
  all_goals exact ⟨_, if_pos ⟨hsel, hdata, htime⟩⟩

theorem legal_encode (i : Instr) : (fieldsOf (encode i)).legal = true := by
  cases i with
  | nop => exact Laws.EncodesLegally.nop
  | sched e t => exact Laws.EncodesLegally.sched e t
  | disp cc => exact Laws.EncodesLegally.disp cc
  | rdp p cc => exact Laws.EncodesLegally.rdp p cc
  | wrp p v cc rom => exact Laws.EncodesLegally.wrp p v cc rom
  | enq b => exact Laws.EncodesLegally.enq b
  | deq => exact Laws.EncodesLegally.deq
  | clr => exact Laws.EncodesLegally.clr
  | upd => exact Laws.EncodesLegally.upd
  | armrx a => exact Laws.EncodesLegally.armrx a
  | armtx a n => exact Laws.EncodesLegally.armtx a n
  | setact a => exact Laws.EncodesLegally.setact a

theorem legal_iff_decodes : (fieldsOf w).legal = true ↔ ∃ i, decode w = .ok i := by
  refine ⟨decodeFields_of_legal, ?_⟩
  rintro ⟨i, hi⟩
  exact encode_of_decode hi ▸ legal_encode i

/-! ## A test by mask and match, field by field -/

theorem and_eq_iff_fields (w m p : CommandWord) : w &&& m = p ↔
    (fieldsOf w).op &&& (fieldsOf m).op = (fieldsOf p).op ∧
    (fieldsOf w).sel &&& (fieldsOf m).sel = (fieldsOf p).sel ∧
    (fieldsOf w).data &&& (fieldsOf m).data = (fieldsOf p).data ∧
    (fieldsOf w).time &&& (fieldsOf m).time = (fieldsOf p).time := by
  have h : w &&& m = p ↔ fieldsOf (w &&& m) = fieldsOf p :=
    ⟨congrArg fieldsOf, fun h => by rw [← word_fieldsOf (w &&& m), h, word_fieldsOf]⟩
  rw [h]
  conv_lhs => rw [← word_fieldsOf w, ← word_fieldsOf m, word_and_word, fieldsOf_word]
  simp [fieldsOf]

theorem extractLsb'_72_eq_select {k : Nat} (h : k ≤ 4) : w.extractLsb' 72 k = (fieldsOf w).sel.extractLsb' 0 k := by
  ext n hn
  simp only [fieldsOf, BitVec.getElem_extractLsb', BitVec.getLsbD_extractLsb', Nat.zero_add]
  simp [Nat.lt_of_lt_of_le hn h]

/-! What the masks of the opcode table leave of a field: all of it, its high part, or nothing. -/

@[simp] theorem nibble_and_ones (x : BitVec 4) : x &&& 0xF#4 = x := BitVec.and_allOnes
@[simp] theorem byte_and_ones (x : Byte) : x &&& 0xFF#8 = x := BitVec.and_allOnes
@[simp] theorem half_and_ones (x : BitVec 32) : x &&& 0xFFFFFFFF#32 = x := BitVec.and_allOnes
@[simp] theorem time_and_ones (x : Cycles) : x &&& 0xFFFFFFFFFFFFFFFF#64 = x := BitVec.and_allOnes

@[simp] theorem select_and_high2_eq_zero (sel : BitVec 4) : sel &&& 0xC#4 = 0#4 ↔ sel.extractLsb' 2 2 = 0#2 := by
  revert sel; decide

@[simp] theorem select_and_bit3_eq_zero (sel : BitVec 4) : sel &&& 0x8#4 = 0#4 ↔ sel.extractLsb' 3 1 = 0#1 := by
  revert sel; decide

theorem append_zero_eq_zero (hi : BitVec 32) : (hi ++ 0#32 : Cycles) = 0#64 ↔ hi = 0#32 := by
  constructor
  · intro h
    rw [← timeHigh_append hi 0#32, h]; rfl
  · rintro rfl; rfl

@[simp] theorem time_and_high_eq_zero (t : Cycles) :
    t &&& 0xFFFFFFFF00000000#64 = 0#64 ↔ t.extractLsb' 32 32 = 0#32 := by
  have hand : t &&& (0xFFFFFFFF#32 ++ 0#32 : Cycles) = t.extractLsb' 32 32 ++ 0#32 := by
    conv_lhs => rw [← timeHigh_append_timeLow t]
    exact BitVec.and_append.trans (by rw [half_and_ones, BitVec.and_zero])
  rw [← append_zero_eq_zero, ← hand]
  rfl

@[simp] theorem EventId.bits_ne_three (e : EventId) : e.bits ≠ 3#2 := by cases e <;> decide
@[simp] theorem Action.bits_ne_seven (a : Action) : a.bits ≠ 7#3 := by cases a <;> decide

/-! ## The opcode table -/

/-- A row's test of a word, its side condition included (30_encoding section 2). -/
structure OpcodeRow.Accepts (row : OpcodeRow) (w : CommandWord) : Prop where
  masked : w &&& row.mask = row.pattern
  event : row.mnemonic = "SCHED" → w.extractLsb' 72 2 ≠ 3
  action : row.mnemonic ∈ ["ARMRX", "ARMTX", "SETACT"] → w.extractLsb' 72 3 ≠ 7

theorem OpcodeRow.accepts_iff_fields (row : OpcodeRow) : row.Accepts w ↔
    ((fieldsOf w).op &&& (fieldsOf row.mask).op = (fieldsOf row.pattern).op ∧
      (fieldsOf w).sel &&& (fieldsOf row.mask).sel = (fieldsOf row.pattern).sel ∧
      (fieldsOf w).data &&& (fieldsOf row.mask).data = (fieldsOf row.pattern).data ∧
      (fieldsOf w).time &&& (fieldsOf row.mask).time = (fieldsOf row.pattern).time) ∧
    (row.mnemonic = "SCHED" → (fieldsOf w).sel.extractLsb' 0 2 ≠ 3) ∧
    (row.mnemonic ∈ ["ARMRX", "ARMTX", "SETACT"] → (fieldsOf w).sel.extractLsb' 0 3 ≠ 7) := by
  rw [← and_eq_iff_fields, ← extractLsb'_72_eq_select (by decide), ← extractLsb'_72_eq_select (by decide)]
  exact ⟨fun ⟨hm, he, ha⟩ => ⟨hm, he, ha⟩, fun ⟨hm, he, ha⟩ => ⟨hm, he, ha⟩⟩

/-- A row masks out the operands of its command and matches what the encoding rule fixes of the fields. The first pass
brings the test to the command's fields, the second to those of the row. -/
theorem exists_row_accepts_encode (i : Instr) :
    ∃ row ∈ opcodeTable, row.mnemonic = i.mnemonic ∧ row.Accepts (encode i) := by
  cases i
  all_goals
    simp [opcodeTable, Instr.mnemonic, OpcodeRow.accepts_iff_fields, encode, Instr.fields]
    simp [fieldsOf]

/-- A row and its side condition leave none of R79's clauses to hold. -/
theorem legal_of_accepts {row : OpcodeRow} (hrow : row ∈ opcodeTable) (h : row.Accepts w) :
    (fieldsOf w).legal = true := by
  rw [OpcodeRow.accepts_iff_fields] at h
  generalize fieldsOf w = c at h
  simp only [opcodeTable, List.cons_append, List.nil_append, List.mem_cons, List.not_mem_nil, or_false] at hrow
  rcases hrow with rfl | rfl | rfl | rfl | rfl | rfl | rfl | rfl | rfl | rfl | rfl | rfl
  all_goals
    simp [fieldsOf] at h
    simp [RawCommand.legal, RawCommand.opDefined, RawCommand.unusedSelZero, RawCommand.unusedDataZero,
      RawCommand.unusedTimeZero, RawCommand.eventExists, RawCommand.actionExists, h]

theorem row_mask_op : ∀ row ∈ opcodeTable, (fieldsOf row.mask).op = 0xF#4 := by decide

theorem row_eq_of_op_eq : ∀ r₁ ∈ opcodeTable, ∀ r₂ ∈ opcodeTable,
    (fieldsOf r₁.pattern).op = (fieldsOf r₂.pattern).op → r₁ = r₂ := by decide

/-- Every mask holds the whole op, so a row matches only words of its own op. -/
theorem op_of_match {row : OpcodeRow} (hrow : row ∈ opcodeTable) (h : w &&& row.mask = row.pattern) :
    (fieldsOf w).op = (fieldsOf row.pattern).op := by
  have hop := ((and_eq_iff_fields ..).1 h).1
  rwa [row_mask_op row hrow, nibble_and_ones] at hop

theorem row_unique {r₁ r₂ : OpcodeRow} (h₁ : r₁ ∈ opcodeTable) (h₂ : r₂ ∈ opcodeTable)
    (hm₁ : w &&& r₁.mask = r₁.pattern) (hm₂ : w &&& r₂.mask = r₂.pattern) : r₁ = r₂ :=
  row_eq_of_op_eq r₁ h₁ r₂ h₂ ((op_of_match h₁ hm₁).symm.trans (op_of_match h₂ hm₂))

theorem exists_row_of_decode (h : decode w = .ok i) :
    ∃ row ∈ opcodeTable, row.mnemonic = i.mnemonic ∧ row.Accepts w :=
  encode_of_decode h ▸ exists_row_accepts_encode i

theorem decodes_of_accepts {row : OpcodeRow} (hrow : row ∈ opcodeTable) (h : row.Accepts w) :
    ∃ i, decode w = .ok i ∧ i.mnemonic = row.mnemonic := by
  obtain ⟨i, hi⟩ := legal_iff_decodes.1 (legal_of_accepts hrow h)
  obtain ⟨row', hrow', hname, h'⟩ := exists_row_of_decode hi
  exact ⟨i, hi, by rw [← hname, row_unique hrow' hrow h'.masked h.masked]⟩

end Sys2Proof

namespace Sys2Proof.Machine

variable {i : Instr} {s t u : State} {r : Response}

/-! ## Raising -/

theorem raises_of_body_error {f : FaultCode} (h : body i s = .error f) : Raises i s f :=
  ⟨s.raise f, by rw [exec_eq_finish, h, finish_error], rfl, rfl⟩

/-- R187: the ports of another unit. -/
theorem raises_portNotInBlock {port : Port} (h0 : port ≠ .link) (h3 : port ≠ .status) (h4 : port ≠ .intctl)
    (cc : Cycles) (v : Byte) (rom : Bool) (s : State) :
    Raises (.rdp port cc) s .portNotInBlock ∧ Raises (.wrp port v cc rom) s .portNotInBlock := by
  cases port with
  | link => exact absurd rfl h0
  | status => exact absurd rfl h3
  | intctl => exact absurd rfl h4
  | keyboard | romBank | displayControl | displayData | unassigned =>
    exact ⟨raises_of_body_error rfl, raises_of_body_error rfl⟩

/-! ## The response word -/

/-- R63: a response word has a command word's fields, with the strobe in the place of the select. -/
theorem fieldsOf_word_ok (completed : Option Action) (d : Byte) (τ : Cycles) :
    fieldsOf (Response.ok completed d τ).word = ⟨0, strobeBits completed, d, τ⟩ :=
  fieldsOf_word ⟨0, strobeBits completed, d, τ⟩

theorem strobeBits_done (completed : Option Action) : (strobeBits completed).getLsbD 3 = completed.isSome := by
  cases completed with
  | none => rfl
  | some a => cases a <;> rfl

theorem strobeBits_act (completed : Option Action) :
    (strobeBits completed).extractLsb' 0 3 = completed.elim 0 Action.bits := by
  cases completed with
  | none => rfl
  | some a => exact selectLow3_append 1#1 a.bits

theorem getLsbD_75_eq_select (w : CommandWord) : w.getLsbD 75 = (fieldsOf w).sel.getLsbD 3 := by
  simp [fieldsOf]

/-! ## Which commands answer with which field -/

/-- R63: the command that answers, where a field of its answer is not empty. -/
structure AnswerFields (i : Instr) (completed : Option Action) (d : Byte) (τ : Cycles) : Prop where
  data : d ≠ 0 → (∃ p cc, i = .rdp p cc) ∨ i = .deq
  time : τ ≠ 0 → ∃ cc, i = .disp cc
  completed : completed ≠ none → i = .upd ∨ (∃ cc, i = .rdp .link cc) ∨ ∃ v cc, i = .wrp .link v cc true

/-- Every effect names its answer, and the fields that are not empty in it are its command's. -/
theorem Effect.answerFields (h : Effect s i u r) : ∃ c d τ, r = .ok c d τ ∧ AnswerFields i c d τ := by
  cases h <;> exact ⟨_, _, _, rfl, by constructor <;> simp⟩

/-! ## The statements -/

/-- Settles O7: the fields read back from the word are the command's own, and the decoder accepts those. -/
theorem decodeOfEncodeIsTheCommand : Obligations.DecodeOfEncodeIsTheCommand := decode_encode

/-- Settles O8: a word that decodes has the fields of its command, and a word is the word of its fields. -/
theorem encodeOfDecodeIsTheWord : Obligations.EncodeOfDecodeIsTheWord := fun _ _ => encode_of_decode

/-- Settles O6: legal words are the ones that decode; the words with a port select are the ones the encoder writes. -/
theorem illegalWordsRaiseIllegalCommand : Obligations.IllegalWordsRaiseIllegalCommand := by
  refine ⟨fun w => legal_iff_decodes, fun s w rest hs hw => ?_, fun p cc v rom => ⟨Port.ofBits p, ?_, ?_, ?_⟩⟩
  · cases hd : decode w with
    | ok i => rw [legal_iff_decodes.2 ⟨i, hd⟩] at hw; cases hw
    | error e => exact ⟨_, step_of_decode_error hs hd, rfl⟩
  · have h := decode_encode (.rdp (Port.ofBits p) cc)
    rw [encode, Instr.fields, Port.bits_ofBits] at h
    exact h
  · have h := decode_encode (.wrp (Port.ofBits p) v cc rom)
    rw [encode, Instr.fields, Port.bits_ofBits] at h
    exact h
  · intro h0 h3 h4 s
    have hne : ∀ port : Port, p ≠ port.bits → Port.ofBits p ≠ port :=
      fun port hp h => hp (h ▸ (Port.bits_ofBits p).symm)
    exact raises_portNotInBlock (hne .link h0) (hne .status h3) (hne .intctl h4) cc v rom s

/-- Settles O9: a decoding word passes its command's row, a word that passes a row is legal, and each row has an op of
its own. -/
theorem decoderAgreesWithTheOpcodeTable : Obligations.DecoderAgreesWithTheOpcodeTable := by
  refine ⟨fun w i hd => ?_, fun w row hrow hm => ?_, fun w r₁ h₁ r₂ h₂ => row_unique h₁ h₂⟩
  · obtain ⟨row, hrow, hname, hacc⟩ := exists_row_of_decode hd
    exact ⟨row, hrow, hname, hacc.masked, hacc.event, hacc.action⟩
  · by_cases he : row.mnemonic = "SCHED" ∧ w.extractLsb' 72 2 = 3
    · exact .inr (.inl he)
    by_cases ha : row.mnemonic ∈ ["ARMRX", "ARMTX", "SETACT"] ∧ w.extractLsb' 72 3 = 7
    · exact .inr (.inr ha)
    exact .inl (decodes_of_accepts hrow ⟨hm, not_and.1 he, not_and.1 ha⟩)

/-- Settles O10: the fields of an answer's word are the ones it was made of, a fault's word is its code and zeros, and
the fields a command fills are read off its effect. -/
theorem responseWordFields : Obligations.ResponseWordFields := by
  refine ⟨fun c d τ => ?_, fun f => ⟨BitVec.extractLsb'_append_eq_right, ?_⟩, fun i s t c d τ h hr => ?_⟩
  · have hf := fieldsOf_word_ok c d τ
    refine ⟨congrArg RawCommand.op hf, ?_, ?_, congrArg RawCommand.data hf, congrArg RawCommand.time hf⟩
    · rw [getLsbD_75_eq_select, hf, strobeBits_done]
    · rw [extractLsb'_72_eq_select (by decide), hf, strobeBits_act]
      cases c <;> rfl
  · cases f <;> rfl
  · obtain ⟨u, r, he, rfl⟩ | ⟨f, -, rfl⟩ := exec_effect h
    · obtain ⟨c', d', τ', rfl, ha⟩ := he.answerFields
      cases hr
      exact ⟨ha.data, ha.time, ha.completed⟩
    · cases hr

/-- Settles O3: the decoder runs on each of the sixteen words. -/
theorem sampleWordsDecodeAsTheSpecSays : Obligations.SampleWordsDecodeAsTheSpecSays := by
  unfold Obligations.SampleWordsDecodeAsTheSpecSays
  decide

end Sys2Proof.Machine
end

section
/-! PROOFS of the statements of 40_byte_queue. Each command's equation where it raises nothing comes from its effect and
each fault from its body; then what ENQ of a list and DEQ of the whole queue come to, each by its own induction. -/

namespace Sys2Proof.Machine

variable {i : Instr} {s u : State}

/-! ## Room in the queue -/

theorem HasRoom.queueFull_eq_false {depth : Option Nat} {q : List Byte} {n : Nat} (h : HasRoom depth q (n + 1)) :
    queueFull depth q = false := by
  rw [queueFull_eq_false_iff]
  intro hd
  have : q.length + (n + 1) ≤ q.length := h _ hd
  omega

/-- A byte put in the queue takes one place of the room. -/
theorem HasRoom.append_singleton {depth : Option Nat} {q : List Byte} {n : Nat} (h : HasRoom depth q (n + 1))
    (b : Byte) : HasRoom depth (q ++ [b]) n := by
  intro d hd
  have : q.length + (n + 1) ≤ d := h d hd
  simp only [List.length_append, List.length_singleton]
  omega

/-! ## The faults -/

theorem raises_queueOverflow {b : Byte} (h : s.params.queueDepth = some s.queue.length) :
    Raises (.enq b) s .queueOverflow :=
  raises_of_body_error (by simp only [body, (enqueue_error_iff ..).2 ⟨(queueFull_eq_true_iff ..).2 h, rfl⟩])

theorem raises_queueUnderflow (h : s.queue = []) : Raises .deq s .queueUnderflow :=
  raises_of_body_error (by simp only [body, (dequeue_error_iff ..).2 ⟨h, rfl⟩])

/-! ## Runs of ENQ and of DEQ -/

theorem ran_of_effect {c : Option Action} {d : Byte} {τ : Cycles} (h : Effect s i u (.ok c d τ)) :
    ran i s = some (u.respond (.ok c d τ)) := by
  simp only [ran, exec_of_effect h, State.respond_response]

/-- R80, R84: bytes for which there is room all enter, behind what the queue holds. -/
theorem enqAll_of_hasRoom {bs : List Byte} (h : HasRoom s.params.queueDepth s.queue bs.length) :
    ∃ t, enqAll bs s = some t ∧ t.queue = s.queue ++ bs := by
  induction bs generalizing s with
  | nil => exact ⟨s, rfl, (List.append_nil _).symm⟩
  | cons b bs ih =>
    have hb : ran (.enq b) s = some ((s.setQueue (s.queue ++ [b])).respond .zero) :=
      ran_of_effect (.enq b h.queueFull_eq_false)
    obtain ⟨t, ht, hq⟩ := ih (s := (s.setQueue (s.queue ++ [b])).respond .zero) (h.append_singleton b)
    refine ⟨t, ?_, ?_⟩
    · rw [enqAll, hb]; exact ht
    · rw [hq, State.respond_queue, State.setQueue_queue, List.append_assoc, List.singleton_append]

/-- R80, R84: DEQs to the number of the queue's bytes answer exactly those, the oldest first. -/
theorem deqAll_of_queue_eq {q : List Byte} (h : s.queue = q) :
    ∃ u, deqAll q.length s = some (q, u) ∧ u.queue = [] := by
  induction q generalizing s with
  | nil => exact ⟨s, rfl, h⟩
  | cons b rest ih =>
    have hb : ran .deq s = some ((s.setQueue rest).respond (.ok none b 0)) := ran_of_effect (.deq b rest h)
    obtain ⟨u, hu, hq⟩ := ih (s := (s.setQueue rest).respond (.ok none b 0)) rfl
    exact ⟨u, by
      simp only [List.length_cons, deqAll, hb, hu, State.respond_response, Option.bind_eq_bind, Option.bind_some], hq⟩

/-! ## The statements -/

/-- Settles O22: the bytes enter behind the queue, and all the queue then holds leaves it in order. -/
theorem queueIsFirstInFirstOut : Obligations.QueueIsFirstInFirstOut := by
  intro bs s h
  obtain ⟨t, ht, hq⟩ := enqAll_of_hasRoom h
  obtain ⟨u, hu, he⟩ := deqAll_of_queue_eq hq
  rw [List.length_append] at hu
  exact ⟨t, u, ht, by rw [hq, List.length_append], hu, he⟩

/-- Settles O21: a command that raises nothing ends with its effect; a full queue and an empty one raise. -/
theorem queueCommands : Obligations.QueueCommands := by
  refine ⟨fun b s h => ?_, fun b s => raises_queueOverflow, fun b rest s h => ?_, fun s => raises_queueUnderflow,
    fun s => ?_⟩
  · exact exec_of_effect (.enq b ((queueFull_eq_false_iff ..).2 h))
  · exact exec_of_effect (.deq b rest h)
  · exact exec_of_effect .clr

end Sys2Proof.Machine
end

section
/-! PROOFS of the statements of 41_event_scheduler. The one writer of the event table is the slot write with its
`Recompute()` (R90), so every step keeps the cached pair the argmin, and so does every run; the answers and the faults of
DISP turn on whether its case delivers an interrupt. -/

namespace Sys2Proof.Machine

variable {i : Instr} {s t u : State} {r : Response} {c cc : Cycles}

/-! ## Runs -/

/-- What every step keeps holds at the end of every run that starts with it. -/
theorem Reaches.preserves {P : State → Prop} (hP : ∀ {s t : State}, P s → step s = .next t → P t)
    (h : Reaches s t) (hs : P s) : P t := by
  induction h with
  | refl => exact hs
  | tail _ hstep ih => exact hP ih hstep

/-! ## The cached pair -/

/-- R100, R106, R107: each case of a fire ends with a slot write. -/
theorem Fired.cacheValid (h : Fired s t c) : t.sched.CacheValid := by
  cases h with
  | timer | endFrame => exact Scheduler.arm_cacheValid ..
  | cascade | interrupt => rw [afterDelivery_eq]; exact Scheduler.arm_cacheValid ..

/-- R90: a command that writes a slot recomputes the pair; every other command leaves the event table. -/
theorem Effect.cacheValid (he : Effect s i u r) (h : s.sched.CacheValid) : u.sched.CacheValid := by
  cases he with
  | sched e time => exact Scheduler.arm_cacheValid s.sched e time
  | disp _ _ _ _ _ hf => exact hf.cacheValid
  | wrpStatus v cc =>
    obtain ⟨time, hs⟩ := writeStatus_sched v cc s
    exact hs ▸ Scheduler.arm_cacheValid ..
  | wrpIntctl v cc =>
    obtain hs | ⟨time, hs⟩ := writeIntctl_sched v cc s
    · exact hs ▸ h
    · exact hs ▸ Scheduler.arm_cacheValid ..
  | _ => exact h

theorem exec_cacheValid (he : exec i s = .next t) (h : s.sched.CacheValid) : t.sched.CacheValid := by
  obtain ⟨u, r, heff, rfl⟩ | ⟨f, -, rfl⟩ := exec_effect he
  · exact heff.cacheValid h
  · exact h

@[simp] theorem applyEnvironment_sched (e : Input) (s : State) : (applyEnvironment e s).sched = s.sched := by
  cases e <;> rfl

theorem step_cacheValid (h : s.sched.CacheValid) (hs : step s = .next t) : t.sched.CacheValid := by
  obtain ⟨-, rfl⟩ | ⟨w, rest, i, -, -, he⟩ | ⟨w, rest, e, -, -, rfl⟩ | ⟨e, rest, -, rfl, -⟩ := step_cases hs
  · exact h
  · exact exec_cacheValid he h
  · exact h
  · rw [applyEnvironment_sched]
    exact h

/-! ## The cases of DISP in which an interrupt is delivered -/

/-- R101, R102: the cached event's case runs the Interrupt case, directly or by cascade out of the Timer case. -/
abbrev State.Delivers (s : State) : Prop :=
  s.sched.nextId = .interrupt ∨ (s.sched.nextId = .timer ∧ s.MayCascade)

/-- R94, R108: a fire costs what its delivery costs, and nothing where it delivers nothing. -/
theorem Fired.cost_eq (h : Fired s t c) : c = if s.Delivers then deliveryCost s.cpu.im else 0 := by
  cases h with
  | timer hid hc =>
    have hno : ¬ s.MayCascade := by rw [← cascades_iff, hc]; exact Bool.false_ne_true
    exact (if_neg (by simp [hid, hno])).symm
  | cascade hid hc him =>
    rw [if_pos (.inr ⟨hid, (cascades_iff s).1 hc⟩)]
    exact (timerFired s).byMode_cost him
  | interrupt hid him => rw [if_pos (.inl hid), s.byMode_cost him]
  | endFrame hid => exact (if_neg (by simp [hid])).symm

/-- R102: in mode 3 a fire that would deliver is refused, and the Timer case's own writes with it. -/
theorem fire_eq_badInterruptMode (h : s.Delivers) (him : s.cpu.im = 3) : fire s = .error .badInterruptMode := by
  have hbad : badMode s.cpu = true := by simp [badMode, him]
  obtain hid | ⟨hid, hc⟩ := h
  · simp [fire, hid, fireInterrupt, State.deliverInterrupt, hbad]
  · simp [fire, hid, fireTimer, (cascades_iff s).2 hc, hbad]

/-- A DISP that raises nothing answers the caller's count advanced by the cost of its fire (R92). -/
theorem exec_disp_answer {completed : Option Action} {d : Byte} {τ : Cycles} (h : exec (.disp cc) s = .next t)
    (hr : t.response = .ok completed d τ) : ∃ u cost, Fired s u cost ∧ τ = cc + cost := by
  obtain ⟨u, r, he, rfl⟩ | ⟨f, -, rfl⟩ := exec_effect h
  · cases he with
    | disp _ _ cost _ _ hf => cases hr; exact ⟨u, cost, hf, rfl⟩
  · cases hr

/-! ## The faults of DISP, each past the tests before it (R202) -/

theorem raises_noEventArmed (h : s.sched.nextTime = never) : Raises (.disp cc) s .noEventArmed :=
  raises_of_body_error (if_pos h)

theorem raises_dispatchNotDue (harmed : s.sched.nextTime ≠ never) (hcc : cc < s.sched.nextTime) :
    Raises (.disp cc) s .dispatchNotDue :=
  raises_of_body_error ((if_neg harmed).trans (if_pos hcc))

theorem raises_badInterruptMode (harmed : s.sched.nextTime ≠ never) (hdue : s.sched.nextTime ≤ cc) (h : s.Delivers)
    (him : s.cpu.im = 3) : Raises (.disp cc) s .badInterruptMode :=
  raises_of_body_error (by
    simp only [body, dispatch, harmed, BitVec.not_lt.2 hdue, if_false, fire_eq_badInterruptMode h him])

/-! ## The statements -/

/-- Settles O20: every step keeps the cached pair the argmin, so every run does. -/
theorem cacheStaysTheArgmin : Obligations.CacheStaysTheArgmin :=
  fun _ _ h hrun => hrun.preserves step_cacheValid h

/-- Settles O12: SCHED's effect is one slot write through `arm`, and the word with id 3 has the fields of no event. -/
theorem schedWritesItsSlotAndRecomputes : Obligations.SchedWritesItsSlotAndRecomputes := by
  refine ⟨fun id time s => ⟨_, exec_of_effect (.sched id time), ?_, fun e he => ?_, ?_, rfl⟩, fun time => ?_⟩
  · exact (s.sched.arm_eventTime id id time).trans (if_pos rfl)
  · exact (s.sched.arm_eventTime id e time).trans (if_neg he)
  · exact s.sched.arm_cacheValid id time
  · have hf : fieldsOf (0x1#4 ++ 0b0011#4 ++ 0x00#8 ++ time) = ⟨0x1#4, 0b0011#4, 0x00#8, time⟩ :=
      fieldsOf_word ⟨0x1#4, 0b0011#4, 0x00#8, time⟩
    have he : eventOperand 0b0011#4 = .error .eventIdThree := by decide
    rw [decode, hf]
    exact congrArg (Except.map (Instr.sched · time)) he

/-- Settles O17: the answer is the caller's count and the cost of the fire, which is that of a delivery or none. -/
theorem dispatchReturnsTheBranchCost : Obligations.DispatchReturnsTheBranchCost := by
  intro cc s t completed d τ h hr
  obtain ⟨u, cost, hf, rfl⟩ := exec_disp_answer h hr
  rw [hf.cost_eq]
  rfl

/-- Settles O11: NOP's effect is the state it starts in. -/
theorem nopChangesNothing : Obligations.NopChangesNothing :=
  fun _ => exec_of_effect .nop

/-- Settles O13: a due case that delivers, directly or by cascade, has passed the first two tests. -/
theorem dispatchFaultsInOrder : Obligations.DispatchFaultsInOrder := by
  refine fun cc s => ⟨raises_noEventArmed, raises_dispatchNotDue, fun h him => ?_⟩
  obtain ⟨hid, harmed, hdue⟩ | ⟨⟨hid, harmed, hdue⟩, hc⟩ := h
  · exact raises_badInterruptMode harmed hdue (.inl hid) him
  · exact raises_badInterruptMode harmed hdue (.inr ⟨hid, hc⟩) him

end Sys2Proof.Machine
end

section
/-! PROOFS of the statements of 42_interrupt_dispatch. A DISP that does not fault ends with one of the three cases of a
fire. Each case either delivers an interrupt, and then leaves what the table of R208 says, or leaves the CPU side as it
was; the frame and every byte of memory follow from these two. -/

namespace Sys2Proof.Machine

variable {s t u : State} {id : EventId} {c cc cost : Cycles}

/-! ## What a DISP answers -/

/-- R92: a due DISP ends with the case of its event. -/
theorem exec_disp_of_fired (h : s.Due cc id) (hf : Fired s u cost) :
    exec (.disp cc) s = .next (u.respond (.ok none 0 (cc + cost))) :=
  exec_of_effect (.disp cc u cost h.2.1 (BitVec.not_lt.2 h.2.2) hf)

/-- The same of a case that costs nothing (R94). -/
theorem exec_disp_of_fired_free (h : s.Due cc id) (hf : Fired s u 0) :
    exec (.disp cc) s = .next (u.respond (.ok none 0 cc)) :=
  by
  simpa only [add_zero] using exec_disp_of_fired h hf

/-- R92, R201: a DISP ends with one of the three cases, or with a fault raised where it started. -/
theorem exec_disp_cases (h : exec (.disp cc) s = .next t) :
    (∃ u cost, Fired s u cost ∧ t = u.respond (.ok none 0 (cc + cost))) ∨ ∃ f, t = s.raise f := by
  obtain ⟨u, r, he, rfl⟩ | ⟨f, -, rfl⟩ := exec_effect h
  · cases he with
    | disp _ _ cost _ _ hf => exact .inl ⟨u, cost, hf, rfl⟩
  · exact .inr ⟨f, rfl⟩

/-! ## What a delivery leaves -/

/-- R101, the other way round. -/
theorem cascades_eq_false_iff (s : State) : cascades s = false ↔ ¬ s.MayCascade := by
  rw [← Bool.not_eq_true, cascades_iff]

/-- A delivery disarms the Interrupt event and leaves the other slots (R106). -/
theorem State.byMode_afterward_slots (s : State) : s.byMode.1.afterward.sched.timer = s.sched.timer ∧
    s.byMode.1.afterward.sched.interrupt = never ∧ s.byMode.1.afterward.sched.endFrame = s.sched.endFrame := by
  rw [afterDelivery_eq]
  exact ⟨rfl, rfl, rfl⟩

/-- The Timer case's own writes touch nothing that a delivery starts from. -/
theorem Delivered.of_timerFired (h : Delivered (timerFired s) t) : Delivered s t := { h with }

/-- Nor does the answer touch anything that a delivery leaves. -/
theorem Delivered.respond (h : Delivered s t) (r : Response) : Delivered s (t.respond r) := { h with }

/-- R109, R40: a delivery in a mode that has a meaning reaches no byte but the two pushed ones. -/
theorem Delivered.memByte_of_ne (h : Delivered s t) (him : s.cpu.im ≠ 3) {a : Addr} (h1 : a ≠ s.cpu.sp - 1)
    (h2 : a ≠ s.cpu.sp - 2) : t.memByte a = s.memByte a := by
  have hpushed : s.cpu.im = 1 ∨ s.cpu.im = 2 → t.memByte a = s.memByte a := fun hm => by
    rw [(h.stacked hm).2, if_neg (h2 ·.1), if_neg (h1 ·.1)]
  obtain hm | hm | hm | hm := im_cases s.cpu.im
  · exact (h.mode0 hm).2.2.2 a
  · exact hpushed (.inl hm)
  · exact hpushed (.inr hm)
  · exact absurd hm him

/-- R100 to R107: a fire delivers an interrupt in a mode that has a meaning, or it leaves the CPU side. -/
theorem Fired.delivered_or_kept (h : Fired s t c) :
    (s.Delivers ∧ s.cpu.im ≠ 3 ∧ Delivered s t) ∨ (¬ s.Delivers ∧ CpuSideKept s t) := by
  cases h with
  | timer hid hc =>
    have hno : ¬ s.MayCascade := (cascades_eq_false_iff s).1 hc
    exact .inr ⟨by simp [hid, hno], rfl, rfl, rfl⟩
  | cascade hid hc him =>
    exact .inl ⟨.inr ⟨hid, (cascades_iff s).1 hc⟩, him, .of_timerFired ((timerFired s).delivered him)⟩
  | interrupt hid him => exact .inl ⟨.inl hid, him, s.delivered him⟩
  | endFrame hid => exact .inr ⟨by simp [hid], rfl, rfl, rfl⟩

theorem Fired.memByte_of_ne (h : Fired s t c) {a : Addr} (h1 : a ≠ s.cpu.sp - 1) (h2 : a ≠ s.cpu.sp - 2) :
    t.memByte a = s.memByte a := by
  obtain ⟨-, him, hd⟩ | ⟨-, hk⟩ := h.delivered_or_kept
  · exact hd.memByte_of_ne him h1 h2
  · exact hk.memByte a

/-- R103: mode 0 stores nothing, and neither does a fire that delivers nothing. -/
theorem Fired.memByte_of_mode0_or_not_delivers (h : Fired s t c) (hq : s.cpu.im = 0 ∨ ¬ s.Delivers) (a : Addr) :
    t.memByte a = s.memByte a := by
  obtain ⟨hdel, -, hd⟩ | ⟨-, hk⟩ := h.delivered_or_kept
  · exact (hd.mode0 (hq.resolve_right (not_not.2 hdel))).2.2.2 a
  · exact hk.memByte a

/-! ## The statements -/

/-- Settles O14: the Timer case alone, the Timer case with the delivery it cascades into, and the refusal in mode 3. -/
theorem timerFireAndItsCascade : Obligations.TimerFireAndItsCascade := by
  intro cc s hdue
  refine ⟨fun hno => ?_, fun hc him => ?_, fun hc him => ?_⟩
  · have hf : Fired s (timerFired s) 0 := .timer hdue.1 ((cascades_eq_false_iff s).2 hno)
    exact ⟨_, exec_disp_of_fired_free hdue hf, rfl, rfl, rfl, hf.cacheValid, rfl⟩
  · have hf : Fired s _ _ := .cascade hdue.1 ((cascades_iff s).2 hc) him
    have hd : Delivered s (timerFired s).byMode.1.afterward := .of_timerFired ((timerFired s).delivered him)
    obtain ⟨htimer, hint, hframe⟩ := (timerFired s).byMode_afterward_slots
    have hcost : (timerFired s).byMode.2 = deliveryCost s.cpu.im := (timerFired s).byMode_cost him
    refine ⟨_, exec_disp_of_fired hdue hf, hd.respond _, htimer, hint, hframe, hf.cacheValid, ?_⟩
    rw [hcost, afterDelivery_eq]
    rfl
  · exact raises_badInterruptMode hdue.2.1 hdue.2.2 (.inr ⟨hdue.1, hc⟩) him

/-- Settles O15: the Interrupt case is a delivery and no more, and mode 3 is refused. -/
theorem interruptFireDelivers : Obligations.InterruptFireDelivers := by
  intro cc s hdue
  refine ⟨fun him => ?_, fun him => ?_⟩
  · have hf : Fired s _ _ := .interrupt hdue.1 him
    obtain ⟨htimer, hint, hframe⟩ := s.byMode_afterward_slots
    refine ⟨_, exec_disp_of_fired hdue hf, (s.delivered him).respond _, htimer, hint, hframe, hf.cacheValid, ?_⟩
    rw [s.byMode_cost him, afterDelivery_eq]
    rfl
  · exact raises_badInterruptMode hdue.2.1 hdue.2.2 (.inl hdue.1) him

/-- Settles O19: by cases on what a DISP can do; a fault leaves everything but the answer and the record of faults. -/
theorem dispatchFrame : Obligations.DispatchFrame := by
  intro cc s t h
  obtain ⟨hparams, hinputs, hpressed, hpending⟩ := exec_keeps_environment h
  obtain ⟨u, cost, hf, rfl⟩ | ⟨f, rfl⟩ := exec_disp_cases h
  · obtain ⟨-, hen, hper⟩ := fired_frame hf
    obtain ⟨him, hi, -, -⟩ := CpuRegs.FlagsNotSet.of_fired hf
    refine ⟨hf.link, hf.queue, hf.onIntEnable, hf.romBankHighBit, hen, hper, hpressed, hpending, hparams, hinputs, him,
      hi, fun a => hf.memByte_of_ne, fun hq a => hf.memByte_of_mode0_or_not_delivers ?_ a⟩
    obtain hm | hid | ⟨hid, hno⟩ := hq
    · exact .inl hm
    · exact .inr (by simp [hid])
    · exact .inr (by simp [hid, hno])
  · exact ⟨rfl, rfl, rfl, rfl, rfl, rfl, rfl, rfl, rfl, rfl, rfl, rfl, fun _ _ _ => rfl, fun _ _ => rfl⟩

/-- Settles O16: the EndFrame case is one slot write through `arm`, at no cost. -/
theorem endFrameFireDisarmsItself : Obligations.EndFrameFireDisarmsItself := by
  intro cc s hdue
  have hf : Fired s _ 0 := .endFrame hdue.1
  exact ⟨_, exec_disp_of_fired_free hdue hf, rfl, rfl, rfl, hf.cacheValid, rfl⟩

end Sys2Proof.Machine
end

section
/-! PROOFS of the statements of 43_link_bit_transport. The equations of `State.updated`, row by row, are what UPD does;
what a completion presents, and who moves the transport, follow by cases on what a command can do. A handshake is five
of these equations in a row, a byte is eight handshakes by induction over the bits left, and a transfer is an induction
over its bytes. -/

namespace Sys2Proof.Machine

variable {i : Instr} {s t u : State} {r : Response}

/-! ## UPD is one `Update()` with its answer -/

theorem State.updated_eq_some_iff (s : State) (x : State × Option Action) : s.updated = some x ↔ s.update = .ok x := by
  unfold State.updated
  cases s.update <;> simp [Except.toOption]

/-- R120: UPD answers the state its `Update()` leaves, with the action a completion presented. -/
theorem exec_upd_of_updated {c : Option Action} (h : s.updated = some (t, c)) :
    exec .upd s = .next (t.respond (.ok c 0 0)) := by
  obtain ⟨x, hx, rfl, rfl⟩ := (update_ok_iff s t c).1 ((s.updated_eq_some_iff _).1 h)
  exact exec_of_effect (.upd x hx)

/-- R120, R201: UPD raises what its `Update()` raises. -/
theorem raises_upd_of_updateLink_error {f : FaultCode} (h : updateLink s.params.queueDepth s.link s.queue = .error f) :
    Raises .upd s f :=
  raises_of_body_error (by simp only [body, (update_error_iff s f).2 h])

/-! ## Step 1, by what is left -/

section StepOne

variable {depth : Option Nat} {l : Link} {q : List Byte}

theorem receiveStep1_bit (h : l.bitsLeft ≠ 1) :
    receiveStep1 l q = ({ l with bitsLeft := l.bitsLeft - 1, stepsLeft := 5 }, none) :=
  if_pos (sub_ne_zero.2 h)

theorem receiveStep1_byte (h : l.bitsLeft = 1) (hq : q ≠ []) :
    receiveStep1 l q = ({ l with bitsLeft := 0, linkStatus := .prepReceive }, none) := by
  simp [receiveStep1, h, List.length_pos_iff.2 hq]

theorem receiveStep1_done (h : l.bitsLeft = 1) (hq : q = []) :
    receiveStep1 l q = ({ l with bitsLeft := 0, linkStatus := .inactive, action := .doNothing }, some l.action) := by
  simp [receiveStep1, completeTransfer, h, hq]

theorem sendStep1_bit (h : l.bitsLeft ≠ 1) :
    sendStep1 depth l q = .ok ⟨{ l with bitsLeft := l.bitsLeft - 1, stepsLeft := 5 }, q, none⟩ :=
  if_pos (sub_ne_zero.2 h)

theorem sendStep1_full (h : l.bitsLeft = 1) (hq : queueFull depth q = true) :
    sendStep1 depth l q = .error .queueOverflow := by
  simp [sendStep1, h, enqueue, hq]

theorem sendStep1_byte (h : l.bitsLeft = 1) (hq : queueFull depth q = false) (hn : l.bytesLeft ≠ 1) :
    sendStep1 depth l q =
      .ok ⟨{ l with bitsLeft := 0, bytesLeft := l.bytesLeft - 1, linkStatus := .prepSend }, q ++ [l.acc], none⟩ := by
  have hne : l.bytesLeft - 1#32 ≠ 0#32 := sub_ne_zero.2 hn
  simp [sendStep1, h, enqueue, hq, hne]

theorem sendStep1_done (h : l.bitsLeft = 1) (hq : queueFull depth q = false) (hn : l.bytesLeft = 1) :
    sendStep1 depth l q =
      .ok ⟨{ l with bitsLeft := 0, bytesLeft := 0, linkStatus := .inactive, action := .doNothing }, q ++ [l.acc],
        some l.action⟩ := by
  simp [sendStep1, h, enqueue, hq, hn, completeTransfer]

end StepOne

/-! ## The rows that hold -/

namespace State

variable (s : State)

@[simp] theorem setLink_setQueue_self (l : Link) : (s.setLink l).setQueue s.queue = s.setLink l := rfl

/-- A row that writes nothing. -/
theorem updated_hold (h : updateLink s.params.queueDepth s.link s.queue = .ok ⟨s.link, s.queue, none⟩) :
    s.updated = some (s, none) :=
  s.updated_link h

/-- R121, R138: no row for this status, or none for this step. -/
theorem updated_of_no_row (h : s.link.linkStatus ∈ [LinkStatus.inactive, .unused5, .unused6, .unused7] ∨
    (s.link.linkStatus ∈ [LinkStatus.receive, .send] ∧ s.link.stepsLeft ∈ [0#3, 6#3, 7#3])) :
    s.updated = some (s, none) := by
  apply s.updated_hold
  simp only [List.mem_cons, List.not_mem_nil, or_false] at h
  obtain h | ⟨h | h, hs⟩ := h
  · obtain h | h | h | h := h <;> simp [updateLink, h]
  · obtain hs | hs | hs := hs <;> simp [updateLink, h, receiveStep, hs]
  · obtain hs | hs | hs := hs <;> simp [updateLink, h, sendStep, hs]

/-- R128, R133, R138: step 1 with the count not 1, where 0 wraps, goes back to step 5. -/
theorem updated_step1_of_bits_left (h : s.link.linkStatus ∈ [LinkStatus.receive, .send])
    (h1 : s.link.stepsLeft = 1#3) (hb : s.link.bitsLeft ≠ 1) :
    s.updated = some (s.setLink { s.link with bitsLeft := s.link.bitsLeft - 1, stepsLeft := 5 }, none) := by
  simp only [List.mem_cons, List.not_mem_nil, or_false] at h
  obtain h | h := h
  · rw [s.updated_receive1 h h1, receiveStep1_bit hb]
  · exact s.updated_send1 h h1 (sendStep1_bit hb)

theorem updated_prepSend_hold (h : s.link.linkStatus = .prepSend) (hl : s.link.lineState ≠ 0b11#2) :
    s.updated = some (s, none) :=
  s.updated_hold (by simp [updateLink, h, prepSend, hl])

theorem updated_receive4_hold (h : s.link.linkStatus = .receive) (h4 : s.link.stepsLeft = 4#3)
    (hr : s.link.localOutput ≠ 0b00#2) : s.updated = some (s, none) :=
  s.updated_hold (by simp [updateLink, h, receiveStep, h4, receiveStep4, hr])

theorem updated_receive2_hold (h : s.link.linkStatus = .receive) (h2 : s.link.stepsLeft = 2#3)
    (hl : s.link.lineState ≠ 0b00#2) : s.updated = some (s, none) :=
  s.updated_hold (by simp [updateLink, h, receiveStep, h2, receiveStep2, hl])

theorem updated_send5_hold (h : s.link.linkStatus = .send) (h5 : s.link.stepsLeft = 5#3)
    (hl : s.link.lineState = 0b11#2) : s.updated = some (s, none) :=
  s.updated_hold (by simp [updateLink, h, sendStep, h5, sendStep5, hl])

theorem updated_send3_hold (h : s.link.linkStatus = .send) (h3 : s.link.stepsLeft = 3#3)
    (hr : s.link.localOutput ≠ 0b00#2) : s.updated = some (s, none) :=
  s.updated_hold (by simp [updateLink, h, sendStep, h3, sendStep3, hr])

end State

/-! ## The sample of a Send -/

/-- R129: bit `8 - bitsLeft` takes wire 0, and every other bit stays. -/
theorem sampleInto_getLsbD (l : Link) (h8 : l.bitsLeft.toNat ≤ 8) {k : Nat} (hk : k < 8) :
    (sampleInto l).getLsbD k =
      (l.acc.getLsbD k || (decide (k = 8 - l.bitsLeft.toNat) && l.lineState.getLsbD 0)) := by
  simp only [sampleInto, h8, if_true, BitVec.getLsbD_or, BitVec.getLsbD_shiftLeft]
  by_cases h : k = 8 - l.bitsLeft.toNat
  · subst h
    simp [hk]
  · obtain hlt | hgt := Nat.lt_or_gt_of_ne h
    · simp [h, hlt]
    · simp [h, show k - (8 - l.bitsLeft.toNat) ≠ 0 by omega]

/-- R138, log 17: the shift is out of range, and the sample is dropped. -/
theorem sampleInto_of_out_of_range (l : Link) (h : 8 < l.bitsLeft.toNat ∨ l.bitsLeft = 0) : sampleInto l = l.acc := by
  obtain h | h := h
  · exact if_neg (not_le.2 h)
  · simp [sampleInto, h]

/-! ## What a completion presents -/

/-- R128, R133, R134: what a completion in the answer says of the transport before and after, and when there is one. -/
structure StrobeMarksReturn (l m : Link) (c : Option Action) : Prop where
  presents : ∀ a, c = some a → a = l.action ∧ m.linkStatus = .inactive ∧ m.action = .doNothing ∧
    (l.linkStatus = .receive ∨ l.linkStatus = .send) ∧ l.stepsLeft = 1
  marks : l.linkStatus ≠ .inactive → m.linkStatus = .inactive → c = some l.action

namespace StrobeMarksReturn

/-- An answer without a completion, where no transfer ends. -/
theorem of_none {l m : Link} (h : m.linkStatus = l.linkStatus ∨ m.linkStatus ≠ .inactive) :
    StrobeMarksReturn l m none := by
  obtain h | h := h <;> constructor <;> simp [h]

/-- An `Update()` completes at step 1 of a Receive or a Send, and nowhere else goes to Inactive. -/
theorem of_updateLink {depth : Option Nat} {l : Link} {q : List Byte} {x : LinkResult}
    (h : updateLink depth l q = .ok x) : StrobeMarksReturn l x.link x.completed := by
  cases updateLink_row h with
  | receive1Done hs h1 => exact ⟨fun a ha => ⟨(Option.some.inj ha).symm, rfl, rfl, .inl hs, h1⟩, fun _ _ => rfl⟩
  | send1Done hs h1 => exact ⟨fun a ha => ⟨(Option.some.inj ha).symm, rfl, rfl, .inr hs, h1⟩, fun _ _ => rfl⟩
  | prepReceive | prepSend | receive1Byte | send1Byte => exact of_none (.inr nofun)
  | _ => exact of_none (.inl rfl)

/-- By cases on what a command can do: the commands that run no `Update()` answer no completion, and of them the arming
ones alone write the status, from Inactive. -/
theorem of_effect {c : Option Action} {d : Byte} {τ : Cycles} (h : Effect s i u (.ok c d τ)) :
    (c ≠ none → RunsUpdate i s) ∧ StrobeMarksReturn s.link u.link c := by
  cases h with
  | upd x hx => exact ⟨fun _ => .inl rfl, of_updateLink hx⟩
  | rdpLink cc x hx => exact ⟨fun _ => .inr (.inl ⟨cc, rfl⟩), of_updateLink hx⟩
  | wrpLinkUpdate v cc x ha hx =>
    have hx := of_updateLink hx
    exact ⟨fun _ => .inr (.inr ⟨ha, v, cc, rfl⟩), hx.presents, hx.marks⟩
  | armrx | armtx => exact ⟨absurd rfl, of_none (.inr nofun)⟩
  | disp cc u cost _ _ hf => exact ⟨absurd rfl, of_none (.inl (by rw [hf.link]))⟩
  | wrpStatus v cc => exact ⟨absurd rfl, of_none (.inl (by rw [writeStatus_link]))⟩
  | wrpIntctl v cc => exact ⟨absurd rfl, of_none (.inl (by rw [writeIntctl_link]))⟩
  | nop | sched | rdpStatus | wrpLink | enq | deq | clr | setact => exact ⟨absurd rfl, of_none (.inl rfl)⟩

end StrobeMarksReturn

/-! ## Who moves the transport -/

/-- R201: a command that faults writes nothing of the link side, so it has its writers too. -/
theorem exec_linkSideWriters (h : exec i s = .next t) : LinkSideWriters i s t := by
  obtain ⟨u, r, he, rfl⟩ | ⟨f, -, rfl⟩ := exec_effect h
  · exact .of_effect he
  · exact .of_kept rfl rfl rfl

/-! ## A Receive -/

/-- R142: the five invocations of a bit, each from the state the CPU side leaves. -/
theorem receiveBit_eq_some {a b c d e : State × Option Action} {v : Bool} (ha : s.updated = some a)
    (hv : wireBit a.1.link.lineState = some v) (hb : a.1.updated = some b) (hc : b.1.updated = some c)
    (hd : (c.1.peerDrives 0b11#2).updated = some d) (he : (d.1.peerDrives 0b00#2).updated = some e) :
    receiveBit s = some (v, e.1, [a.2, b.2, c.2, d.2, e.2]) := by
  simp only [receiveBit, ha, hv, hb, hc, hd, he, Option.bind_eq_bind, Option.bind_some]

/-- A CPU side that pulls both wires holds both low. -/
theorem lineState_of_pulled {l : Link} (h : l.localOutput = 0b11#2) : l.lineState = 0b00#2 := by
  rw [Link.lineState, h]
  generalize l.xmitOutput = x
  revert x
  decide

/-- The transport in front of step 1, both sides released, when `n` bits of the accumulator were shown. -/
def Link.shown (l : Link) (n : Nat) (left : BitVec 4) : Link :=
  { l with acc := l.acc >>> n, bitsLeft := left, localOutput := 0b00#2, xmitOutput := 0b00#2, stepsLeft := 1 }

/-- R124 to R128, R142: a bit from step 5, up to what step 1 does with the count. -/
theorem receiveBit_eq_step1 (h : s.link.linkStatus = .receive) (h5 : s.link.stepsLeft = 5)
    (hr : s.link.localOutput = 0b00#2) :
    receiveBit s = some (s.link.acc.getLsbD 0, s.setLink (receiveStep1 (s.link.shown 1 s.link.bitsLeft) s.queue).1,
      List.replicate 4 none ++ [(receiveStep1 (s.link.shown 1 s.link.bitsLeft) s.queue).2]) := by
  have h4 : (s.setLink (receiveStep5 s.link)).updated =
      some (s.setLink { receiveStep5 s.link with stepsLeft := 3 }, none) := State.updated_receive4 _ h rfl hr
  have h3 : (s.setLink { receiveStep5 s.link with stepsLeft := 3 }).updated =
      some (s.setLink { s.link.shown 1 s.link.bitsLeft with localOutput := s.link.localOutput, stepsLeft := 2 },
        none) :=
    State.updated_receive3 _ h rfl
  have h2 : (s.setLink { s.link.shown 1 s.link.bitsLeft with localOutput := 0b11#2, stepsLeft := 2 }).updated =
      some (s.setLink { s.link.shown 1 s.link.bitsLeft with localOutput := 0b11#2 }, none) :=
    State.updated_receive2 _ h rfl (lineState_of_pulled rfl)
  have h1 : (s.setLink (s.link.shown 1 s.link.bitsLeft)).updated = _ := State.updated_receive1 _ h rfl
  exact receiveBit_eq_some (s.updated_receive5 h h5) (State.wireBit_receiveStep5 s.link hr) h4 h3 h2 h1

/-- A bit that is not the byte's last: R128 goes back to step 5. -/
theorem receiveBit_of_bits_left (h : s.link.linkStatus = .receive) (h5 : s.link.stepsLeft = 5)
    (hr : s.link.localOutput = 0b00#2) (hb : s.link.bitsLeft ≠ 1) :
    receiveBit s = some (s.link.acc.getLsbD 0,
      s.setLink { s.link with acc := s.link.acc >>> 1, bitsLeft := s.link.bitsLeft - 1, xmitOutput := 0b00#2 },
      List.replicate 5 none) := by
  rw [receiveBit_eq_step1 h h5 hr, receiveStep1_bit (l := s.link.shown 1 s.link.bitsLeft) hb]
  simp [Link.shown, hr, h5, List.replicate]

theorem receiveBits_cons {n : Nat} {v : Bool} {vs : List Bool} {k m : Strobes} (hv : receiveBit s = some (v, t, k))
    (hvs : receiveBits n t = some (vs, u, m)) : receiveBits (n + 1) s = some (v :: vs, u, k ++ m) := by
  simp only [receiveBits, hv, hvs, Option.bind_eq_bind, Option.bind_some]

/-- The low bits of a byte are its bit 0 and the low bits of the byte shifted right by one. -/
theorem map_getLsbD_range_succ (b : Byte) (n : Nat) :
    (List.range (n + 1)).map b.getLsbD = b.getLsbD 0 :: (List.range n).map (b >>> 1).getLsbD := by
  rw [List.range_succ_eq_map, List.map_cons, List.map_map]
  congr 2
  funext k
  rw [BitVec.getLsbD_ushiftRight, Nat.add_comm, Function.comp_apply]

/-- Invocations that present nothing, in front of others of which the last one may complete. -/
theorem replicate_none_append_strobe (m n : Nat) (c : Option Action) :
    List.replicate m none ++ (List.replicate n none ++ [c]) = List.replicate (m + n) none ++ [c] := by
  rw [← List.append_assoc, List.replicate_append_replicate]

/-- R142: the bits of the accumulator arrive least significant first, up to what step 1 does after the last one. -/
theorem receiveBits_succ (n : Nat) (h : s.link.linkStatus = .receive) (h5 : s.link.stepsLeft = 5)
    (hr : s.link.localOutput = 0b00#2) (hb : s.link.bitsLeft.toNat = n + 1) :
    receiveBits (n + 1) s = some ((List.range (n + 1)).map s.link.acc.getLsbD,
      s.setLink (receiveStep1 (s.link.shown (n + 1) 1) s.queue).1,
      List.replicate (5 * n + 4) none ++ [(receiveStep1 (s.link.shown (n + 1) 1) s.queue).2]) := by
  induction n generalizing s with
  | zero =>
    have h1 : s.link.bitsLeft = 1 := BitVec.eq_of_toNat_eq hb
    have hbit := receiveBits_cons (n := 0) (receiveBit_eq_step1 h h5 hr) rfl
    simpa [h1] using hbit
  | succ n ih =>
    have hne : s.link.bitsLeft ≠ 1 := fun h1 => by simp [h1] at hb
    have hn : (s.link.bitsLeft - 1).toNat = n + 1 := by bv_omega
    have hl : ({ s.link with acc := s.link.acc >>> 1, bitsLeft := s.link.bitsLeft - 1, xmitOutput := 0b00#2 } :
        Link).shown (n + 1) 1 = s.link.shown (n + 1 + 1) 1 := by
      simp only [Link.shown, ← BitVec.shiftRight_add, Nat.add_comm 1]
    rw [receiveBits_cons (receiveBit_of_bits_left h h5 hr hne) (ih h h5 hr hn), replicate_none_append_strobe,
      State.setLink_link, State.setLink_queue, State.setLink_setLink, hl, ← map_getLsbD_range_succ,
      show 5 + (5 * n + 4) = 5 * (n + 1) + 4 by omega]

/-- The transport in front of step 1, both sides released, when the last bit of a byte was shown. -/
def Link.byteShown (l : Link) : Link :=
  { l with
    linkStatus := .receive, acc := 0, bitsLeft := 1, localOutput := 0b00#2, xmitOutput := 0b00#2, stepsLeft := 1 }

/-- R122, R142: a byte is one `Update()` and eight handshakes, up to what step 1 does after the last bit. -/
theorem receiveByte_eq_step1 {b : Byte} {rest : List Byte} (h : s.link.linkStatus = .prepReceive)
    (hq : s.queue = b :: rest) (hr : s.link.localOutput = 0b00#2) :
    receiveByte s = some (bitsOf b, (s.setLink (receiveStep1 s.link.byteShown rest).1).setQueue rest,
      List.replicate 40 none ++ [(receiveStep1 s.link.byteShown rest).2]) := by
  have hbits := receiveBits_succ 7 (s := (s.setLink { s.link with
    acc := b, bitsLeft := 8, stepsLeft := 5, linkStatus := .receive }).setQueue rest) rfl rfl hr rfl
  have hacc : b >>> 8 = 0 := BitVec.ushiftRight_eq_zero le_rfl
  simp only [receiveByte, s.updated_prepReceive h hq, hbits, Option.bind_eq_bind, Option.bind_some, bitsOf,
    Link.byteShown, Link.shown, State.setQueue_link, State.setLink_link, State.setQueue_queue, State.setQueue_setLink,
    State.setLink_setLink, Nat.reduceAdd, hacc]
  rfl

theorem receiveBytes_cons {n : Nat} {v : List Bool} {vs : List (List Bool)} {k m : Strobes}
    (hv : receiveByte s = some (v, t, k)) (hvs : receiveBytes n t = some (vs, u, m)) :
    receiveBytes (n + 1) s = some (v :: vs, u, k ++ m) := by
  simp only [receiveBytes, hv, hvs, Option.bind_eq_bind, Option.bind_some]

/-- R142, R128, R134: a byte arrives, and the transport goes on to the next or completes. -/
theorem receiveByte_of_queue_eq_cons {b : Byte} {rest : List Byte} (h : s.link.linkStatus = .prepReceive)
    (hq : s.queue = b :: rest) (hr : s.link.localOutput = 0b00#2) :
    ∃ t, receiveByte s = some (bitsOf b, t,
        List.replicate 40 none ++ [if rest = [] then some s.link.action else none]) ∧
      t.queue = rest ∧ t.link.localOutput = 0b00#2 ∧ t.link.acc = 0 ∧
      t.link.linkStatus = (if rest = [] then .inactive else .prepReceive) ∧
      t.link.action = (if rest = [] then .doNothing else s.link.action) := by
  rw [receiveByte_eq_step1 h hq hr]
  cases rest with
  | nil =>
    rw [receiveStep1_done rfl rfl]
    exact ⟨_, rfl, rfl, rfl, rfl, rfl, rfl⟩
  | cons c rest =>
    rw [receiveStep1_byte rfl (List.cons_ne_nil c rest)]
    exact ⟨_, rfl, rfl, rfl, rfl, rfl, rfl⟩

/-- R141, R142, R134: the bytes of the queue arrive in order, and the last invocation completes. -/
theorem receiveBytes_of_queue_eq_cons {b : Byte} {rest : List Byte} (h : s.link.linkStatus = .prepReceive)
    (hq : s.queue = b :: rest) (hr : s.link.localOutput = 0b00#2) :
    ∃ t, receiveBytes (rest.length + 1) s = some ((b :: rest).map bitsOf, t,
        List.replicate (41 * rest.length + 40) none ++ [some s.link.action]) ∧
      t.queue = [] ∧ t.LinkQuiescent := by
  induction rest generalizing s b with
  | nil =>
    obtain ⟨t, hbyte, hqueue, -, -, hstatus, haction⟩ := receiveByte_of_queue_eq_cons h hq hr
    have hbytes := receiveBytes_cons (n := 0) hbyte rfl
    exact ⟨t, by simpa using hbytes, hqueue, hstatus, haction⟩
  | cons c rest ih =>
    obtain ⟨t, hbyte, hqueue, hdriver, -, hstatus, haction⟩ := receiveByte_of_queue_eq_cons h hq hr
    obtain ⟨u, hrest, hend⟩ := ih hstatus hqueue hdriver
    rw [haction] at hrest
    refine ⟨u, ?_, hend⟩
    rw [List.length_cons, receiveBytes_cons hbyte hrest, if_neg (List.cons_ne_nil c rest),
      if_neg (List.cons_ne_nil c rest), ← List.replicate_succ', replicate_none_append_strobe,
      show 40 + 1 + (41 * rest.length + 40) = 41 * (rest.length + 1) + 40 by omega]
    rfl

/-! ## A Send -/

/-- R139: the driver of a CPU side that sends a bit. -/
def pulls (v : Bool) : BitVec 2 := if v then 0b10#2 else 0b01#2

/-- R139: while the block is released the wires are not idle, and wire 0 is the bit. -/
theorem lineState_of_pulls {l : Link} (hx : l.xmitOutput = 0b00#2) (v : Bool) :
    ({ l with localOutput := pulls v } : Link).lineState ≠ 0b11#2 ∧
      ({ l with localOutput := pulls v } : Link).lineState.getLsbD 0 = v := by
  simp only [Link.lineState, hx]
  cases v <;> decide

/-- R139: the five invocations of a bit, each from the state the CPU side leaves. -/
theorem sendBit_eq_some {a b c d e : State × Option Action} {v : Bool} (ha : (s.peerDrives (pulls v)).updated = some a)
    (hb : a.1.updated = some b) (hc : (b.1.peerDrives 0b00#2).updated = some c)
    (hd : c.1.updated = some d) (he : d.1.updated = some e) :
    sendBit v s = some (e.1, [a.2, b.2, c.2, d.2, e.2]) := by
  rw [pulls] at ha
  simp only [sendBit, ha, hb, hc, hd, he, Option.bind_eq_bind, Option.bind_some]

theorem sendBits_cons {v : Bool} {vs : List Bool} {k m : Strobes} (hv : sendBit v s = some (t, k))
    (hvs : sendBits vs t = some (u, m)) : sendBits (v :: vs) s = some (u, k ++ m) := by
  simp only [sendBits, hv, hvs, Option.bind_eq_bind, Option.bind_some]

theorem sendBytes_cons {b : Byte} {bs : List Byte} {k m : Strobes} (hb : sendByte b s = some (t, k))
    (hbs : sendBytes bs t = some (u, m)) : sendBytes (b :: bs) s = some (u, k ++ m) := by
  simp only [sendBytes, hb, hbs, Option.bind_eq_bind, Option.bind_some]

/-- The low `k` bits of a byte, the others 0: what the accumulator holds of the byte after `k` bits of it. -/
def lowBits (b : Byte) (k : Nat) : Byte := (b.setWidth k).setWidth 8

theorem lowBits_getLsbD (b : Byte) (k j : Nat) : (lowBits b k).getLsbD j = (decide (j < k) && b.getLsbD j) := by
  by_cases hj : j < 8
  · simp [lowBits, hj]
  · simp [lowBits, hj, BitVec.getLsbD_of_ge b j (not_lt.1 hj)]

theorem lowBits_zero (b : Byte) : lowBits b 0 = 0 := by
  simp [lowBits, BitVec.of_length_zero]

theorem lowBits_eight (b : Byte) : lowBits b 8 = b := by
  simp [lowBits]

/-- The transport after step 5 of a Send has sampled the bit `v` from the CPU side. -/
def Link.sampled (l : Link) (v : Bool) : Link :=
  { l with acc := sampleInto { l with localOutput := pulls v }, localOutput := pulls v, stepsLeft := 4 }

/-- R129, R139: the sample of the byte's bit `k` joins the bits below it. -/
theorem sampled_acc {l : Link} {b : Byte} {k : Nat} (hr : l.xmitOutput = 0b00#2) (hk : k + l.bitsLeft.toNat = 8)
    (hacc : l.acc = lowBits b k) : (l.sampled (b.getLsbD k)).acc = lowBits b (k + 1) := by
  apply BitVec.eq_of_getLsbD_eq
  intro j hj
  have hplace : 8 - l.bitsLeft.toNat = k := by omega
  have hle : l.bitsLeft.toNat ≤ 8 := by omega
  rw [Link.sampled, sampleInto_getLsbD { l with localOutput := pulls (b.getLsbD k) } hle hj,
    (lineState_of_pulls hr _).2, hplace, hacc, lowBits_getLsbD, lowBits_getLsbD]
  obtain hlt | rfl | hgt := Nat.lt_trichotomy j k
  · simp [hlt, hlt.ne, Nat.lt_succ_of_lt hlt]
  · simp
  · simp [hgt.not_gt, hgt.ne', show ¬ j < k + 1 by omega]

/-- The transport in front of step 1, both sides released, with the accumulator as it is by then. -/
def Link.collected (l : Link) (acc : Byte) (left : BitVec 4) : Link :=
  { l with acc := acc, bitsLeft := left, localOutput := 0b00#2, xmitOutput := 0b00#2, stepsLeft := 1 }

/-- R129 to R133: a bit from step 5, up to what step 1 does with the count. -/
theorem sendBit_eq_step1 {v : Bool} {x : LinkResult} (h : s.link.linkStatus = .send) (h5 : s.link.stepsLeft = 5)
    (hr : s.link.xmitOutput = 0b00#2)
    (hx : sendStep1 s.params.queueDepth (s.link.collected (s.link.sampled v).acc s.link.bitsLeft) s.queue = .ok x) :
    sendBit v s = some ((s.setLink x.link).setQueue x.queue, List.replicate 4 none ++ [x.completed]) := by
  have h5 : (s.peerDrives (pulls v)).updated = some (s.setLink (s.link.sampled v), none) :=
    State.updated_send5 (s.peerDrives (pulls v)) h h5 (lineState_of_pulls hr v).1
  have h4 : (s.setLink (s.link.sampled v)).updated = some (s.setLink (sendStep4 (s.link.sampled v)), none) :=
    State.updated_send4 _ h rfl
  have h3 : (s.setLink { sendStep4 (s.link.sampled v) with localOutput := 0b00#2 }).updated =
      some (s.setLink { sendStep4 (s.link.sampled v) with localOutput := 0b00#2, stepsLeft := 2 }, none) :=
    State.updated_send3 _ h rfl rfl
  have h2 : (s.setLink { sendStep4 (s.link.sampled v) with localOutput := 0b00#2, stepsLeft := 2 }).updated =
      some (s.setLink (s.link.collected (s.link.sampled v).acc s.link.bitsLeft), none) :=
    State.updated_send2 _ h rfl
  have h1 := State.updated_send1 (s.setLink (s.link.collected (s.link.sampled v).acc s.link.bitsLeft)) h rfl hx
  exact sendBit_eq_some h5 h4 h3 h2 h1

/-- A bit that is not the byte's last, bit `k`: R133 goes back to step 5. -/
theorem sendBit_of_bits_left {b : Byte} {k : Nat} (h : s.link.linkStatus = .send) (h5 : s.link.stepsLeft = 5)
    (hr : s.link.xmitOutput = 0b00#2) (hb : s.link.bitsLeft ≠ 1)
    (hk : k + s.link.bitsLeft.toNat = 8) (hacc : s.link.acc = lowBits b k) :
    sendBit (b.getLsbD k) s = some (s.setLink { s.link with
      acc := lowBits b (k + 1), bitsLeft := s.link.bitsLeft - 1, localOutput := 0b00#2 }, List.replicate 5 none) := by
  rw [sendBit_eq_step1 h h5 hr (sendStep1_bit (l := s.link.collected _ s.link.bitsLeft) hb), sampled_acc hr hk hacc,
    State.setLink_setQueue_self]
  simp [Link.collected, hr, h5, List.replicate]

/-- R133, R139: the bits of a byte fill the accumulator, up to what step 1 does after the last one. -/
theorem sendBits_succ (n : Nat) {k : Nat} {b : Byte} {x : LinkResult} (h : s.link.linkStatus = .send)
    (h5 : s.link.stepsLeft = 5) (hr : s.link.xmitOutput = 0b00#2) (hb : s.link.bitsLeft.toNat = n + 1)
    (hk : k + (n + 1) = 8) (hacc : s.link.acc = lowBits b k)
    (hx : sendStep1 s.params.queueDepth (s.link.collected b 1) s.queue = .ok x) :
    sendBits ((List.range' k (n + 1)).map b.getLsbD) s =
      some ((s.setLink x.link).setQueue x.queue, List.replicate (5 * n + 4) none ++ [x.completed]) := by
  induction n generalizing s k with
  | zero =>
    have h1 : s.link.bitsLeft = 1 := BitVec.eq_of_toNat_eq hb
    obtain rfl : k = 7 := by omega
    have hs : (s.link.sampled (b.getLsbD 7)).acc = b := by rw [sampled_acc hr (by omega) hacc, lowBits_eight]
    have hbits := sendBits_cons (vs := []) (sendBit_eq_step1 h h5 hr (by rwa [hs, h1])) rfl
    exact hbits
  | succ n ih =>
    have hne : s.link.bitsLeft ≠ 1 := fun h1 => by simp [h1] at hb
    have hn : (s.link.bitsLeft - 1).toNat = n + 1 := by bv_omega
    have hbit := sendBit_of_bits_left h h5 hr hne (by omega) hacc
    have hbits := sendBits_cons hbit (ih (k := k + 1) h h5 hr hn (by omega) rfl hx)
    rw [replicate_none_append_strobe, show 5 + (5 * n + 4) = 5 * (n + 1) + 4 by omega] at hbits
    exact hbits

/-- The transport in front of step 1, both sides released, when the last bit of a byte was collected. -/
def Link.byteCollected (l : Link) (b : Byte) : Link := { l.collected b 1 with linkStatus := .send }

/-- R123, R139: a byte is one `Update()` and eight handshakes, up to what step 1 does after the last bit. -/
theorem sendByte_eq_step1 {b : Byte} {x : LinkResult} (h : s.link.linkStatus = .prepSend)
    (hl : s.link.localOutput = 0b00#2) (hr : s.link.xmitOutput = 0b00#2)
    (hx : sendStep1 s.params.queueDepth (s.link.byteCollected b) s.queue = .ok x) :
    sendByte b s = some ((s.setLink x.link).setQueue x.queue, List.replicate 40 none ++ [x.completed]) := by
  have hidle : s.link.lineState = 0b11#2 := by rw [Link.lineState, hl, hr]; rfl
  have hbits := sendBits_succ 7 (k := 0) (b := b) (s := s.setLink { s.link with
    linkStatus := .send, bitsLeft := 8, stepsLeft := 5, acc := 0 }) rfl rfl hr rfl rfl (lowBits_zero b).symm hx
  rw [← List.range_eq_range'] at hbits
  simp only [sendByte, s.updated_prepSend h hidle, bitsOf, hbits, Option.bind_eq_bind, Option.bind_some]
  rfl

/-- R133: a byte that is not the transfer's last: it is queued and the transport waits for the next. -/
theorem sendByte_of_bytes_left {b : Byte} (h : s.link.linkStatus = .prepSend) (hl : s.link.localOutput = 0b00#2)
    (hr : s.link.xmitOutput = 0b00#2) (hq : queueFull s.params.queueDepth s.queue = false) (hn : s.link.bytesLeft ≠ 1) :
    ∃ t, sendByte b s = some (t, List.replicate 41 none) ∧ t.queue = s.queue ++ [b] ∧ t.params = s.params ∧
      t.link = { s.link.byteCollected b with
        bitsLeft := 0, bytesLeft := s.link.bytesLeft - 1, linkStatus := .prepSend } :=
  ⟨_, sendByte_eq_step1 h hl hr (sendStep1_byte (l := s.link.byteCollected b) rfl hq hn), rfl, rfl, rfl⟩

/-- R133, R134: the transfer's last byte: it is queued and the transfer completes. -/
theorem sendByte_of_last {b : Byte} (h : s.link.linkStatus = .prepSend) (hl : s.link.localOutput = 0b00#2)
    (hr : s.link.xmitOutput = 0b00#2) (hq : queueFull s.params.queueDepth s.queue = false) (hn : s.link.bytesLeft = 1) :
    ∃ t, sendByte b s = some (t, List.replicate 40 none ++ [some s.link.action]) ∧ t.queue = s.queue ++ [b] ∧
      t.LinkQuiescent ∧ t.link.bytesLeft = 0 :=
  ⟨_, sendByte_eq_step1 h hl hr (sendStep1_done (l := s.link.byteCollected b) rfl hq hn), rfl, ⟨rfl, rfl⟩, rfl⟩

/-- R133, R134: a Send puts its bytes behind the queue, and the last invocation completes. -/
theorem sendBytes_of_prepSend {b : Byte} {bs : List Byte} (h : s.link.linkStatus = .prepSend)
    (hl : s.link.localOutput = 0b00#2) (hr : s.link.xmitOutput = 0b00#2) (hn : s.link.bytesLeft.toNat = bs.length + 1)
    (hroom : HasRoom s.params.queueDepth s.queue (bs.length + 1)) :
    ∃ t, sendBytes (b :: bs) s = some (t, List.replicate (41 * bs.length + 40) none ++ [some s.link.action]) ∧
      t.queue = s.queue ++ b :: bs ∧ t.LinkQuiescent ∧ t.link.bytesLeft = 0 := by
  induction bs generalizing s b with
  | nil =>
    obtain ⟨t, hbyte, hend⟩ := sendByte_of_last (b := b) h hl hr hroom.queueFull_eq_false (BitVec.eq_of_toNat_eq hn)
    have hbytes := sendBytes_cons (bs := []) hbyte rfl
    exact ⟨t, by simpa using hbytes, hend⟩
  | cons c bs ih =>
    rw [List.length_cons] at hn hroom
    have hne : s.link.bytesLeft ≠ 1 := fun h1 => by simp [h1] at hn
    have hpred : (s.link.bytesLeft - 1).toNat = bs.length + 1 := by bv_omega
    obtain ⟨t, hbyte, hqueue, hparams, hlink⟩ := sendByte_of_bytes_left (b := b) h hl hr hroom.queueFull_eq_false hne
    have hleft : t.link.bytesLeft = s.link.bytesLeft - 1 := by rw [hlink]
    have haction : t.link.action = s.link.action := by rw [hlink]; rfl
    obtain ⟨u, hbytes, hend, hdone⟩ := ih (s := t) (b := c) (by rw [hlink]) (by rw [hlink]; rfl) (by rw [hlink]; rfl)
      (by rw [hleft, hpred]) (by rw [hqueue, hparams]; exact hroom.append_singleton b)
    refine ⟨u, ?_, by rw [hend, hqueue, List.append_assoc, List.singleton_append], hdone⟩
    rw [sendBytes_cons hbyte hbytes, replicate_none_append_strobe, haction, List.length_cons,
      show 41 + (41 * bs.length + 40) = 41 * (bs.length + 1) + 40 by omega]

/-! ## The statements -/

/-- Settles O28: the rows of a Send at steps 5 to 2, those that hold included, and the place of the sample. -/
theorem updSendSteps : Obligations.UpdSendSteps := by
  refine fun s h => ⟨fun h5 _ h8 hl => ⟨_, exec_upd_of_updated (s.updated_send5 h h5 hl), fun k => ?_⟩,
    fun h5 hl => exec_upd_of_updated (s.updated_send5_hold h h5 hl),
    fun h4 => exec_upd_of_updated (s.updated_send4 h h4),
    fun h3 hr => exec_upd_of_updated (s.updated_send3 h h3 hr),
    fun h3 hr => exec_upd_of_updated (s.updated_send3_hold h h3 hr),
    fun h2 => exec_upd_of_updated (s.updated_send2 h h2)⟩
  exact sampleInto_getLsbD s.link h8

/-- Settles O30: a command that answers has its effect, and a completion is one of step 1's. -/
theorem completionStrobesTheCurrentAction : Obligations.CompletionStrobesTheCurrentAction := by
  intro i s t c d τ h hr
  obtain ⟨u, r, he, rfl⟩ | ⟨f, -, rfl⟩ := exec_effect h
  · rw [State.respond_response] at hr
    subst hr
    obtain ⟨hruns, hmarks⟩ := StrobeMarksReturn.of_effect he
    exact ⟨fun a ha => ⟨hruns (by simp [ha]), hmarks.presents a ha⟩, hmarks.marks⟩
  · cases hr

/-- Settles O32: the writers of the transport's fields are commands that run an `Update()`, and the arming ones. -/
theorem onlyAnUpdateMovesTheTransport : Obligations.OnlyAnUpdateMovesTheTransport := by
  intro i s t h hupd hrdp hwrp
  have hw := exec_linkSideWriters h
  have hno : ¬ RunsUpdate i s := by
    rintro (rfl | ⟨cc, rfl⟩ | ⟨ha, v, cc, rfl⟩)
    · exact hupd rfl
    · exact hrdp cc rfl
    · exact hwrp ha v cc rfl
  have hpos := mt hw.position hno
  simp only [not_or, ne_eq, not_not] at hpos
  obtain ⟨hxmit, hstep, hbits, hacc⟩ := hpos
  refine ⟨hstep, hbits, hacc, hxmit, fun hrx htx => by_contra fun hne => ?_⟩
  obtain hruns | ⟨a, rfl⟩ | ⟨a, n, rfl⟩ := hw.status hne
  · exact hno hruns
  · exact hrx a rfl
  · exact htx a n rfl

/-- Settles O33: with two bits left the bit is not the byte's last. -/
theorem receiveBitHandshake : Obligations.ReceiveBitHandshake := by
  intro s h h5 hr hb
  exact receiveBit_of_bits_left h h5 hr fun h1 => by simp [h1] at hb

/-- Settles O34: eight handshakes by induction over the bits left. -/
theorem receiveByteArrivesLsbFirst : Obligations.ReceiveByteArrivesLsbFirst :=
  fun _ _ _ => receiveByte_of_queue_eq_cons

/-- Settles O35: an induction over the bytes behind the first. -/
theorem receiveDeliversTheWholeQueue : Obligations.ReceiveDeliversTheWholeQueue := by
  intro s h hq hr
  obtain ⟨b, rest, hqueue⟩ := List.exists_cons_of_ne_nil hq
  rw [hqueue]
  exact receiveBytes_of_queue_eq_cons h hqueue hr

/-- Settles O36: an induction over the bytes behind the first. -/
theorem sendCollectsTheBytes : Obligations.SendCollectsTheBytes := by
  intro bs s h hbs hl hr hn hroom
  obtain ⟨b, rest, rfl⟩ := List.exists_cons_of_ne_nil hbs
  exact sendBytes_of_prepSend h hl hr hn hroom

/-- Settles O24: no row writes anything, and the counter's wrap and the dropped sample are those of steps 1 and 5. -/
theorem updInactiveOrOutOfRange : Obligations.UpdInactiveOrOutOfRange := by
  refine ⟨fun s h => exec_upd_of_updated (s.updated_of_no_row h), fun s h h1 hb => ?_, fun s h h5 hb hl => ?_⟩
  · have hwrap : s.link.bitsLeft - 1 = 15 := by rw [hb]; rfl
    rw [exec_upd_of_updated (s.updated_step1_of_bits_left h h1 (by simp [hb])), hwrap]
    rfl
  · rw [exec_upd_of_updated (s.updated_send5 h h5 hl), sampleInto_of_out_of_range s.link hb]
    rfl

/-- Settles O25: the two rows of the pre-states, the hold, and the empty queue of R84. -/
theorem updPreStates : Obligations.UpdPreStates :=
  ⟨fun s _ _ h hq => exec_upd_of_updated (s.updated_prepReceive h hq),
    fun s h hq => raises_upd_of_updateLink_error (by simp [updateLink, h, prepReceive, hq, dequeue]),
    fun s h hl => exec_upd_of_updated (s.updated_prepSend h hl),
    fun s h hl => exec_upd_of_updated (s.updated_prepSend_hold h hl)⟩

/-- Settles O26: the rows of a Receive at steps 5 to 2, those that hold included. -/
theorem updReceiveSteps : Obligations.UpdReceiveSteps := fun s h =>
  ⟨fun h5 => exec_upd_of_updated (s.updated_receive5 h h5),
    fun h4 hr => exec_upd_of_updated (s.updated_receive4 h h4 hr),
    fun h4 hr => exec_upd_of_updated (s.updated_receive4_hold h h4 hr),
    fun h3 => exec_upd_of_updated (s.updated_receive3 h h3),
    fun h2 hl => exec_upd_of_updated (s.updated_receive2 h h2 hl),
    fun h2 hl => exec_upd_of_updated (s.updated_receive2_hold h h2 hl)⟩

/-- Settles O27: step 1 of a Receive by what is left. -/
theorem updReceiveStepOne : Obligations.UpdReceiveStepOne := by
  intro s h h1
  have hupd := exec_upd_of_updated (s.updated_receive1 h h1)
  refine ⟨fun hb => ?_, fun hb hq => ?_, fun hb hq => ?_⟩
  · rw [hupd, receiveStep1_bit hb]; rfl
  · rw [hupd, receiveStep1_byte hb hq]; rfl
  · rw [hupd, receiveStep1_done hb hq]; rfl

/-- Settles O29: step 1 of a Send by what is left, and the full queue of R84. -/
theorem updSendStepOne : Obligations.UpdSendStepOne := by
  refine fun s h h1 => ⟨fun hb => ?_, fun hb hq => raises_upd_of_updateLink_error ?_, fun hb hq hn => ?_,
    fun hb hq hn => ?_⟩
  · exact exec_upd_of_updated (s.updated_send1 h h1 (sendStep1_bit hb))
  · simp [updateLink, h, sendStep, h1, sendStep1_full hb ((queueFull_eq_true_iff ..).2 hq)]
  · exact exec_upd_of_updated (s.updated_send1 h h1 (sendStep1_byte hb ((queueFull_eq_false_iff ..).2 hq) hn))
  · exact exec_upd_of_updated (s.updated_send1 h h1 (sendStep1_done hb ((queueFull_eq_false_iff ..).2 hq) hn))

/-- Settles O31: a command that raises nothing ends with its effect, and the guards raise. -/
theorem armingCommands : Obligations.ArmingCommands := by
  refine ⟨fun act s h hq => exec_of_effect (.armrx act h hq), fun act s h => raises_of_body_error (if_pos ?_),
    fun act n s h hn => exec_of_effect (.armtx act n h hn), fun act n s h => raises_of_body_error (if_pos h),
    fun act s => exec_of_effect (.setact act)⟩
  rwa [List.length_eq_zero_iff]

end Sys2Proof.Machine
end

section
/-! PROOFS of the statements of 45_ports. A Link read and a Link write answer what the one `Update()` they run answers,
as UPD does; a Status write and an Interrupt-control write are a state with its event table kept, re-anchored. -/

namespace Sys2Proof.Machine

variable {s t u : State} {cc : Cycles} {v : Byte} {c : Option Action} {f : FaultCode}

/-! ## The `Update()` of UPD, of a Link read and of a Link write -/

/-- R120, R201: what UPD ends with, by what its `Update()` answers. -/
theorem exec_upd_cases (h : exec .upd s = .next t) :
    (∃ u c, s.update = .ok (u, c) ∧ t = u.respond (.ok c 0 0)) ∨ ∃ f, s.update = .error f ∧ t = s.raise f := by
  obtain ⟨u, r, he, rfl⟩ | ⟨f, hb, rfl⟩ := exec_effect h
  · cases he with
    | upd x hx => exact .inl ⟨_, _, (update_ok_iff s _ _).2 ⟨x, hx, rfl, rfl⟩, rfl⟩
  · cases hu : s.update with
    | ok x => simp [body, hu] at hb
    | error g =>
      obtain rfl : g = f := by simpa [body, hu] using hb
      exact .inr ⟨g, rfl, rfl⟩

theorem update_ok_of_exec_upd {d : Byte} {τ : Cycles} (h : exec .upd s = .next t) (hr : t.response = .ok c d τ) :
    ∃ u, s.update = .ok (u, c) ∧ t = u.respond (.ok c 0 0) := by
  obtain ⟨u, c', hu, rfl⟩ | ⟨f, -, rfl⟩ := exec_upd_cases h
  · cases hr; exact ⟨u, hu, rfl⟩
  · cases hr

theorem update_error_of_exec_upd (h : exec .upd s = .next t) (hr : t.response = .fault f) : s.update = .error f := by
  obtain ⟨u, c, -, rfl⟩ | ⟨g, hu, rfl⟩ := exec_upd_cases h
  · cases hr
  · cases hr; exact hu

/-- R180: the byte is computed from the transport the `Update()` leaves. -/
theorem exec_rdp_link_of_update (cc : Cycles) (h : s.update = .ok (u, c)) : exec (.rdp .link cc) s =
    .next (u.respond (.ok c ((if s.romBankHighBit then 0x10#8 else 0) ||| (u.link.lineState.setWidth 8 <<< 2) |||
      u.link.localOutput.setWidth 8) 0)) := by
  obtain ⟨x, hx, rfl, rfl⟩ := (update_ok_iff s u c).1 h
  rw [exec_of_effect (.rdpLink cc x hx), linkReadByte_eq]
  rfl

theorem raises_rdp_link_of_update (cc : Cycles) (h : s.update = .error f) : Raises (.rdp .link cc) s f :=
  raises_of_body_error (by simp only [body, readPort, readLink, h])

/-- R181: from banked ROM during a transfer the write is an `Update()` of the written state. -/
theorem body_wrp_link_redriven (v : Byte) (cc : Cycles) (ha : s.link.linkStatus ≠ .inactive) :
    body (.wrp .link v cc true) s = (linkWritten v s).update.map fun x => (x.1, .ok x.2 0 0) := by
  simp only [body, writePort, writeLink, Link.active, bne_iff_ne.2 ha, Bool.and_self, if_true]
  cases (linkWritten v s).update <;> rfl

/-! ## The writes of the timer side -/

/-- R183: with bit 1 set the timer interrupt is enabled before the re-anchoring looks at it. -/
theorem writeStatus_eq_reanchor (cc : Cycles) (s : State) (hv : v.getLsbD 1 = true) : writeStatus v cc s =
    ((s.setOnIntEnable (v.getLsbD 0)).setTimer { s.timer with timerIntEnable := true }).reanchor cc := by
  simp only [writeStatus, statusWriteTimerInt, hv, if_true]
  rfl

/-- R183, bit 1 set. -/
theorem writeStatus_of_enabling (cc : Cycles) (s : State) (hv : v.getLsbD 1 = true) : writeStatus v cc s =
    { s with
      onIntEnable := v.getLsbD 0
      timer := { s.timer with timerIntEnable := true, timerLastUpdate := anchorOf cc s.timer.timerPeriod }
      sched := s.sched.arm .timer (anchorOf cc s.timer.timerPeriod + s.timer.timerPeriod.value) } := by
  rw [writeStatus_eq_reanchor cc s hv, reanchor_eq]
  rfl

/-- R183, bit 1 clear. -/
theorem writeStatus_of_disabling (cc : Cycles) (s : State) (hv : v.getLsbD 1 = false) : writeStatus v cc s =
    { s with
      onIntEnable := v.getLsbD 0
      timer := { s.timer with timerIntEnable := false, timerPending := false }
      sched := s.sched.arm .timer never } := by
  simp only [writeStatus, statusWriteTimerInt, hv, Bool.false_eq_true, if_false]
  rfl

/-- R184: the entry of the table at bits 4:1 of the value. -/
theorem periodAt_intctlIndex (q : Params) {k : Fin 16} (hk : k.val = v.toNat / 2 % 16) :
    periodAt q (intctlIndex v) = q.periodTable[k] := by
  simp only [periodAt, intctlIndex_toNat, ← hk, Fin.getElem_fin]

/-- R184, R186: an Interrupt-control write in full, by the period it selects. -/
theorem writeIntctl_eq (cc : Cycles) (s : State) {p : Period} (hp : periodAt s.params (intctlIndex v) = p) :
    writeIntctl v cc s =
    { s with
      timer := { s.timer with timerPeriod := p, timerLastUpdate := anchorOf cc p }
      sched := if s.timer.timerIntEnable then s.sched.arm .timer (anchorOf cc p + p.value) else s.sched } := by
  subst hp
  exact reanchor_eq _ cc

/-- R183, R184: a Status write with bit 1 set and an Interrupt-control write re-anchor a state whose event table is the
starting one. -/
theorem exec_wrp_reanchors {port : Port} (cc : Cycles) (rom : Bool) (s : State)
    (h : port = .intctl ∨ (port = .status ∧ v.getLsbD 1 = true)) :
    ∃ u : State, u.sched = s.sched ∧ exec (.wrp port v cc rom) s = .next ((u.reanchor cc).respond .zero) := by
  obtain rfl | ⟨rfl, hv⟩ := h
  · exact ⟨_, State.setTimer_sched .., exec_of_effect (.wrpIntctl v cc rom)⟩
  · have he := exec_of_effect (.wrpStatus (s := s) v cc rom)
    rw [writeStatus_eq_reanchor cc s hv] at he
    refine ⟨_, ?_, he⟩
    rw [State.setTimer_sched, State.setOnIntEnable_sched]

/-- R186: barring 64-bit wrap, one period after the anchor is after the cycle count. -/
theorem lt_anchorOf_add_period {p : Period} (h : (anchorOf cc p).toNat + p.value.toNat < 2 ^ 64) :
    cc < anchorOf cc p + p.value := by
  obtain ⟨-, -, hlt⟩ := anchorOf_spec cc p
  rwa [BitVec.lt_def, BitVec.toNat_add_of_lt h]

/-! ## The statements -/

/-- Settles O40: the acknowledging Status write is the one clearer, and each Status write is one write of the Timer slot
through `arm`. -/
theorem statusWriteEnablesOrDisables : Obligations.StatusWriteEnablesOrDisables := by
  refine ⟨fun i s t h => (timerPendingHasOneSetterAndOneClearer i s t h).2, fun v cc rom s => ?_⟩
  have he := exec_of_effect (.wrpStatus (s := s) v cc rom)
  constructor <;> intro hv
  · rw [writeStatus_of_enabling cc s hv] at he
    exact ⟨_, he, rfl, rfl, rfl, rfl, s.sched.arm_cacheValid .., rfl⟩
  · rw [writeStatus_of_disabling cc s hv] at he
    exact ⟨_, he, rfl, rfl, rfl, rfl, s.sched.arm_cacheValid .., rfl⟩

/-- Settles O41: the write re-anchors on the grid of the selected period, and `timerIntEnable` decides the slot write. -/
theorem intctlWriteSelectsThePeriod : Obligations.IntctlWriteSelectsThePeriod := by
  rintro v cc rom s k p hk rfl
  have he := exec_of_effect (.wrpIntctl (s := s) v cc rom)
  rw [writeIntctl_eq cc s (periodAt_intctlIndex s.params hk)] at he
  constructor <;> intro hen
  · rw [if_pos hen] at he
    exact ⟨_, he, rfl, rfl, rfl, s.sched.arm_cacheValid .., rfl⟩
  · rwa [if_neg (Bool.eq_false_iff.1 hen)] at he

/-- Settles O42: both writes end with a re-anchoring, whose anchor is on the grid. -/
theorem reanchorHitsThePeriodGrid : Obligations.ReanchorHitsThePeriodGrid := by
  intro port v cc rom s h
  obtain ⟨u, hsched, he⟩ := exec_wrp_reanchors cc rom s h
  obtain ⟨hdvd, hle, hlt⟩ := anchorOf_spec cc u.timer.timerPeriod
  rw [reanchor_eq] at he
  refine ⟨_, he, hdvd, hle, hlt, fun hen => ?_, fun hen => ?_⟩
  · replace hen : u.timer.timerIntEnable = true := hen
    simp only [State.respond_sched, State.respond_timer, hen, if_true]
    exact ⟨rfl, u.sched.arm_cacheValid .., lt_anchorOf_add_period⟩
  · replace hen : u.timer.timerIntEnable = false := hen
    simp only [State.respond_sched, hen, Bool.false_eq_true, if_false, hsched]

/-- Settles O37: the `Update()` of an inactive transport writes nothing, and any other is UPD's. -/
theorem linkReadUpdatesThenReads : Obligations.LinkReadUpdatesThenReads := by
  refine ⟨fun cc s h => ?_, fun cc s t h => ?_⟩
  · have hupd := s.updated_of_no_row (.inl (by simp [h]))
    exact exec_rdp_link_of_update cc ((s.updated_eq_some_iff _).1 hupd)
  · refine ⟨fun c d τ hr => ?_, fun f hr => raises_rdp_link_of_update cc (update_error_of_exec_upd h hr)⟩
    obtain ⟨u, hu, rfl⟩ := update_ok_of_exec_upd h hr
    exact exec_rdp_link_of_update (u := u) cc hu

/-- Settles O38: without a re-drive the write is the two fields; with one it is UPD of the written state, and a fault is
raised where the write started. -/
theorem linkWriteSetsThenRedrives : Obligations.LinkWriteSetsThenRedrives := by
  intro v cc rom s w hw
  obtain rfl : w = linkWritten v s := hw
  refine ⟨fun h => exec_of_effect (.wrpLink v cc rom h), fun ha hrom t h => ?_⟩
  subst hrom
  have hb := body_wrp_link_redriven v cc ha
  refine ⟨fun c d τ hr => ?_, fun f hr => raises_of_body_error ?_⟩
  · obtain ⟨u, hu, rfl⟩ := update_ok_of_exec_upd h hr
    rw [exec_eq_finish, hb, hu]
    rfl
  · rw [hb, update_error_of_exec_upd h hr]
    rfl

/-- Settles O39: the read's effect is the state it starts in, and its byte is the rule's. -/
theorem statusReadHasNoSideEffect : Obligations.StatusReadHasNoSideEffect := by
  intro cc s
  rw [exec_of_effect (.rdpStatus cc), statusReadByte_eq]
  rfl

/-- Settles O44: the bodies of these reads and writes are the faults. -/
theorem portsWithoutAMeaningRaise : Obligations.PortsWithoutAMeaningRaise := by
  refine fun cc v rom s => ⟨raises_of_body_error rfl, fun p hp => ?_⟩
  exact raises_portNotInBlock (by rintro rfl; simp at hp) (by rintro rfl; simp at hp) (by rintro rfl; simp at hp) ..

end Sys2Proof.Machine
end

section
/-! PROOFS of the statements of 60_exceptions. With a valid cache the cached event is the earliest, and a fire writes its
slot alone (R207); a command that faults ends in `State.raise` of the state it started in (R201), so the record of faults
only grows. -/

namespace Sys2Proof.Machine

variable {i : Instr} {s t u : State} {c cc : Cycles}

/-! ## The cached event is the earliest -/

namespace Scheduler.CacheValid

variable {x : Scheduler}

/-- R90, R207: no event is earlier than the cached one, and none of a lower identity is as early. -/
theorem earliest (h : x.CacheValid) (e : EventId) : x.eventTime x.nextId < x.eventTime e ∨
    (x.eventTime x.nextId = x.eventTime e ∧ x.nextId.bits ≤ e.bits) := by
  obtain ⟨htime, hmin, htie⟩ := h
  rw [← htime]
  by_cases heq : x.nextTime = x.eventTime e
  · exact .inr ⟨heq, htie e heq.symm⟩
  · exact .inl (BitVec.lt_of_le_ne (hmin e) heq)

theorem le_eventTime (h : x.CacheValid) {e : EventId} (hid : x.nextId = e) (e' : EventId) :
    x.eventTime e ≤ x.eventTime e' :=
  hid ▸ h.1 ▸ h.2.1 e'

theorem lt_eventTime (h : x.CacheValid) {e e' : EventId} (hid : x.nextId = e) (hb : e'.bits < e.bits) :
    x.eventTime e < x.eventTime e' := by
  subst hid
  exact (h.earliest e').resolve_right fun hle => BitVec.not_lt.2 hle.2 hb

/-- R90: the Timer, the lowest identity, is the cached event wherever none is earlier. -/
theorem nextId_eq_timer (h : x.CacheValid) (hmin : ∀ e, x.timer ≤ x.eventTime e) : x.nextId = .timer := by
  obtain hlt | ⟨-, hb⟩ := h.earliest .timer
  · exact absurd hlt (BitVec.not_lt.2 (hmin x.nextId))
  · revert hb
    cases x.nextId <;> decide

end Scheduler.CacheValid

/-! ## What a DISP that raises nothing serves -/

/-- R92: the cached event is armed and due, and its case ran. -/
theorem exec_disp_served {completed : Option Action} {d : Byte} {τ : Cycles} (h : exec (.disp cc) s = .next t)
    (hr : t.response = .ok completed d τ) :
    s.Due cc s.sched.nextId ∧ ∃ u cost r, Fired s u cost ∧ t = u.respond r := by
  obtain ⟨u, r, he, rfl⟩ | ⟨f, -, rfl⟩ := exec_effect h
  · cases he with
    | disp _ _ cost harmed hdue hf => exact ⟨⟨rfl, harmed, BitVec.not_lt.1 hdue⟩, u, cost, _, hf, rfl⟩
  · cases hr

namespace Fired

/-- R207: one event is served. A cascade writes the Interrupt slot with the never that it held already (R101). -/
theorem eventTime_of_ne (h : Fired s t c) {e : EventId} (he : e ≠ s.sched.nextId) :
    t.sched.eventTime e = s.sched.eventTime e := by
  cases h with
  | timer hid => exact (s.sched.arm_eventTime ..).trans (if_neg (hid ▸ he))
  | cascade hid hc =>
    obtain ⟨-, hnever⟩ := (cascades_iff s).1 hc
    obtain ⟨-, hint, hframe⟩ := (timerFired s).byMode_afterward_slots
    cases e with
    | timer => exact absurd hid.symm he
    | interrupt => exact hint.trans hnever.symm
    | endFrame => exact hframe
  | interrupt hid =>
    rw [afterDelivery_eq]
    exact (s.sched.arm_eventTime ..).trans (if_neg (hid ▸ he))
  | endFrame hid => exact (s.sched.arm_eventTime ..).trans (if_neg (hid ▸ he))

/-- A slot that a fire changes is the served event's. -/
theorem nextId_eq_of_changed (h : Fired s t c) {e : EventId} (he : t.sched.eventTime e ≠ s.sched.eventTime e) :
    s.sched.nextId = e := by
  by_contra hne
  exact he (h.eventTime_of_ne (Ne.symm hne))

/-- R100: what a fire of the Timer leaves, cascade or not. -/
theorem timer_served (h : Fired s t c) (hid : s.sched.nextId = .timer) :
    t.timer = { s.timer with timerPending := true, timerLastUpdate := s.sched.timer } ∧
    t.sched.timer = s.sched.timer + s.timer.timerPeriod.value := by
  cases h with
  | timer => exact ⟨rfl, rfl⟩
  | cascade => rw [afterDelivery_eq]; exact ⟨rfl, rfl⟩
  | interrupt hid' | endFrame hid' => cases hid.symm.trans hid'

/-- R106: what a fire of the Interrupt event leaves, in every mode. -/
theorem interrupt_served (h : Fired s t c) (hid : s.sched.nextId = .interrupt) :
    t.sched.interrupt = never ∧ t.cpu.iff = false ∧ t.cpu.halted = false ∧ t.cpu.r = refreshStep s.cpu.r := by
  cases h with
  | interrupt =>
    rw [afterDelivery_eq, State.byMode_cpu]
    exact ⟨rfl, rfl, rfl, rfl⟩
  | timer hid' | cascade hid' | endFrame hid' => cases hid.symm.trans hid'

/-- R107: the EndFrame event disarms itself. -/
theorem endFrame_served (h : Fired s t c) (hid : s.sched.nextId = .endFrame) : t.sched.endFrame = never := by
  cases h with
  | endFrame => rfl
  | timer hid' | cascade hid' | interrupt hid' => cases hid.symm.trans hid'

end Fired

/-! ## The record of faults -/

/-- R201, log 5: a command appends the fault it raises, or leaves the record. -/
theorem exec_faultLog_grows (h : exec i s = .next t) : s.faultLog <+: t.faultLog := by
  obtain ⟨u, r, hb, rfl⟩ | ⟨f, -, rfl⟩ := exec_next_cases h
  · obtain ⟨-, hlog, -⟩ := body_ok_keeps hb
    rw [State.respond_faultLog, hlog]
  · exact List.prefix_append s.faultLog [f]

@[simp] theorem applyEnvironment_faultLog (e : Input) (s : State) : (applyEnvironment e s).faultLog = s.faultLog := by
  cases e <;> rfl

/-- No step takes a fault off the record: the environment cannot, and a word refused adds its own (R79). -/
theorem step_faultLog_grows (h : step s = .next t) : s.faultLog <+: t.faultLog := by
  obtain ⟨-, rfl⟩ | ⟨w, rest, i, -, -, he⟩ | ⟨w, rest, e, -, -, rfl⟩ | ⟨e, rest, -, rfl, -⟩ := step_cases h
  · exact List.prefix_rfl
  · exact exec_faultLog_grows (s := s.setInputs rest) he
  · exact List.prefix_append s.faultLog [.illegalCommand]
  · rw [applyEnvironment_faultLog, State.setInputs_faultLog]

theorem Reaches.faultLog_grows (h : Reaches s t) : s.faultLog <+: t.faultLog :=
  h.preserves (P := fun u => s.faultLog <+: u.faultLog) (fun hp hstep => hp.trans (step_faultLog_grows hstep))
    List.prefix_rfl

/-! ## The statements -/

/-- Settles O18: the event is the cached one; a slot that changes is its slot, so its place among the three is the
cache's; and a Timer due with an armed Interrupt event does not cascade. -/
theorem dispatchServesTheEarliestEvent : Obligations.DispatchServesTheEarliestEvent := by
  intro cc s t completed d τ hv h hr
  obtain ⟨⟨-, harmed, hdue⟩, u, cost, r, hf, rfl⟩ := exec_disp_served h hr
  rw [hv.1] at harmed hdue
  refine ⟨⟨s.sched.nextId, hv.earliest, harmed, hdue, fun hid => ?_, hf.interrupt_served, hf.endFrame_served⟩,
    fun hne => ?_, fun hne => ?_, fun hne => ?_, fun htie hle => ?_⟩
  · obtain ⟨htimer, hslot⟩ := hf.timer_served hid
    rw [State.respond_timer, htimer]
    exact ⟨rfl, rfl, hslot⟩
  · have hid : s.sched.nextId = .endFrame := hf.nextId_eq_of_changed hne
    exact ⟨hv.lt_eventTime hid (e' := .timer) (by decide), hv.lt_eventTime hid (e' := .interrupt) (by decide),
      hf.eventTime_of_ne (e := .timer) (by simp [hid]), hf.eventTime_of_ne (e := .interrupt) (by simp [hid])⟩
  · have hid : s.sched.nextId = .interrupt := hf.nextId_eq_of_changed hne
    exact ⟨hv.lt_eventTime hid (e' := .timer) (by decide), hv.le_eventTime hid .endFrame,
      hf.eventTime_of_ne (e := .timer) (by simp [hid]), hf.eventTime_of_ne (e := .endFrame) (by simp [hid])⟩
  · have hid : s.sched.nextId = .timer := hf.nextId_eq_of_changed hne
    exact ⟨hv.le_eventTime hid .interrupt, hv.le_eventTime hid .endFrame,
      hf.eventTime_of_ne (e := .interrupt) (by simp [hid]), hf.eventTime_of_ne (e := .endFrame) (by simp [hid])⟩
  · have hid : s.sched.nextId = .timer := hv.nextId_eq_timer fun e => by
      cases e with
      | timer => exact BitVec.le_refl s.sched.timer
      | interrupt => exact htie ▸ BitVec.le_refl s.sched.timer
      | endFrame => exact hle
    have hnever : s.sched.interrupt ≠ never := by
      rw [hid] at harmed
      exact htie ▸ harmed
    have hkept : CpuSideKept s u := by
      obtain ⟨hdel, -, -⟩ | ⟨-, hk⟩ := hf.delivered_or_kept
      · exact absurd hdel (by simp [hid, hnever])
      · exact hk
    exact ⟨hkept.cpu, hf.eventTime_of_ne (e := .interrupt) (by simp [hid]), hkept.memByte⟩

/-- Settles O46: a command ends with the state and the answer of a body that raised nothing, or with the fault raised
where it started. -/
theorem faultsLeaveNoTrace : Obligations.FaultsLeaveNoTrace := by
  intro i s t h
  obtain ⟨u, r, hb, rfl⟩ | ⟨f, -, rfl⟩ := exec_next_cases h
  · obtain ⟨⟨c, d, τ, rfl⟩, hlog, -⟩ := body_ok_keeps hb
    exact ⟨nofun, fun _ _ _ _ => hlog⟩
  · refine ⟨fun g hg => ?_, nofun⟩
    cases hg
    rfl

/-- Settles O47: every step only appends to the record, so every run does. -/
theorem faultRecordIsSticky : Obligations.FaultRecordIsSticky := by
  intro s t hrun
  have hp : s.faultLog <+: t.faultLog := hrun.faultLog_grows
  exact ⟨hp, (hp.subset ·), fun hnone => List.prefix_nil.1 (hnone ▸ hp)⟩

end Sys2Proof.Machine
end

section
/-! PROOFS of the statements of 70_reset_and_hazards. A step either leaves the block's own state or is the effect of the
command it took, so an invariant is a case analysis on `Effect`; of the transport and the queue that analysis is made once,
in `LinkSideMove`. -/

namespace Sys2Proof.Machine

variable {i : Instr} {s t u : State} {r : Response} {cc : Cycles} {v : Byte}

/-! ## A step, as the block's own state sees it -/

/-- From `s` to `t` the block's own units and the parameters are left. -/
structure BlockKept (s t : State) : Prop where
  sched : t.sched = s.sched
  timer : t.timer = s.timer
  link : t.link = s.link
  queue : t.queue = s.queue
  params : t.params = s.params

/-- R29, R32, R41: what the environment changes is none of the block's own. -/
theorem blockKept_applyEnvironment (e : Input) (s : State) : BlockKept s (applyEnvironment e s) := by
  cases e <;> exact ⟨rfl, rfl, rfl, rfl, rfl⟩

/-- Nothing to take, a change of the environment and a fault (R201) leave the block; any other step is the effect of the
command it took. -/
theorem step_kept_or_effect (h : step s = .next t) : BlockKept s t ∨
    ∃ w rest i u r, s.inputs = .command w :: rest ∧ decode w = .ok i ∧ Effect (s.setInputs rest) i u r ∧
      t = u.respond r := by
  obtain ⟨-, rfl⟩ | ⟨w, rest, i, hin, hd, he⟩ | ⟨w, rest, e, -, -, rfl⟩ | ⟨e, rest, -, rfl, -⟩ := step_cases h
  · exact .inl ⟨rfl, rfl, rfl, rfl, rfl⟩
  · obtain ⟨u, r, heff, rfl⟩ | ⟨f, -, rfl⟩ := exec_effect he
    · exact .inr ⟨w, rest, i, u, r, hin, hd, heff, rfl⟩
    · exact .inl ⟨rfl, rfl, rfl, rfl, rfl⟩
  · exact .inl ⟨rfl, rfl, rfl, rfl, rfl⟩
  · exact .inl { blockKept_applyEnvironment e (s.setInputs rest) with }

theorem Effect.params (h : Effect s i u r) : u.params = s.params := by
  obtain ⟨hp, -⟩ := exec_keeps_environment (exec_of_effect h)
  exact hp

/-! ## What a command does to the transport and the queue -/

/-- Everything a command can do to the transport `l` and the queue `q`. A command that leaves both steers the transport
to where it is. -/
inductive LinkSideMove (depth : Option Nat) (l : Link) (q : List Byte) : Link → List Byte → Prop where
  | steer (v : BitVec 2) (a : Action) : LinkSideMove depth l q { l with localOutput := v, action := a } q
  | update (v : BitVec 2) (x : LinkResult) : updateLink depth { l with localOutput := v } q = .ok x →
      LinkSideMove depth l q x.link x.queue
  | armrx (a : Action) : l.linkStatus = .inactive →
      LinkSideMove depth l q { l with linkStatus := .prepReceive, action := a } q
  | armtx (a : Action) (n : BitVec 32) : l.linkStatus = .inactive → n ≠ 0#32 →
      LinkSideMove depth l q { l with linkStatus := .prepSend, bytesLeft := n, action := a } q
  | enqueue (b : Byte) : queueFull depth q = false → LinkSideMove depth l q l (q ++ [b])
  | remove (rest : List Byte) : rest <:+ q → LinkSideMove depth l q l rest

namespace LinkSideMove

variable {depth : Option Nat} {l m : Link} {q q' : List Byte}

theorem of_kept (hl : u.link = l) (hq : u.queue = q) : LinkSideMove depth l q u.link u.queue := by
  rw [hl, hq]
  exact .steer l.localOutput l.action

theorem of_effect (h : Effect s i u r) : LinkSideMove s.params.queueDepth s.link s.queue u.link u.queue := by
  cases h with
  | nop | sched | rdpStatus => exact of_kept rfl rfl
  | disp _ _ _ _ _ hf => exact of_kept hf.link hf.queue
  | wrpStatus v cc => exact of_kept (writeStatus_link v cc s) (writeStatus_queue v cc s)
  | wrpIntctl v cc => exact of_kept (writeIntctl_link v cc s) (writeIntctl_queue v cc s)
  | rdpLink _ x hx | upd x hx => exact .update s.link.localOutput x hx
  | wrpLinkUpdate v _ x _ hx => exact .update (linkWriteLines v) x hx
  | wrpLink v => exact .steer (linkWriteLines v) s.link.action
  | setact a => exact .steer s.link.localOutput a
  | armrx a hi => exact .armrx a hi
  | armtx a n hi hn => exact .armtx a n hi hn
  | enq b hroom => exact .enqueue b hroom
  | deq b rest hq => exact .remove rest (hq ▸ List.suffix_cons b rest)
  | clr => exact .remove [] List.nil_suffix

/-- R236 items 2 to 6. No clause of the invariant looks at the CPU side's driver or at the action. -/
theorem inv (h : LinkSideMove depth l q m q') (hv : l.Inv) : m.Inv := by
  cases h with
  | steer => exact { hv with }
  | update v x hx =>
    have hdriven : ({ l with localOutput := v } : Link).Inv := { hv with }
    exact updateLink_inv hdriven hx
  | armrx a hi =>
    have hrest := hv.resting (.inl hi)
    have hreleased := hv.released (.inl hi)
    exact ⟨by simp, by simp, fun _ => hrest, fun _ => hreleased, by simp, by simp, by simp, by simp⟩
  | armtx a n hi hn =>
    have hrest := hv.resting (.inl hi)
    have hreleased := hv.released (.inl hi)
    have hbytes : 1 ≤ n.toNat := by bv_omega
    exact ⟨by simp, by simp, fun _ => hrest, fun _ => hreleased, by simp, by simp, by simp, fun _ => hbytes⟩
  | enqueue | remove => exact hv

/-- R236 item 9: ENQ appends only where there is room, as Send step 1 does. -/
theorem bounded (h : LinkSideMove depth l q m q') (hb : ∀ d, depth = some d → q.length ≤ d) :
    ∀ d, depth = some d → q'.length ≤ d := by
  intro d hd
  have hle := hb d hd
  cases h with
  | steer | armrx | armtx => exact hle
  | update v x hx => exact updateLink_bounded hx hb d hd
  | enqueue b hroom =>
    have hne : depth ≠ some q.length := (queueFull_eq_false_iff depth q).1 hroom
    have hlt : q.length ≠ d := fun hlen => hne (hlen ▸ hd)
    simp only [List.length_append, List.length_singleton]
    omega
  | remove rest hsuffix => exact hsuffix.length_le.trans hle

/-- R236 items 4 and 5: only an `Update()` moves the transport within a byte. -/
theorem historyKept (h : LinkSideMove depth l q m q') : l.HistoryKept m := by
  cases h with
  | steer | enqueue | remove => exact .of_same rfl rfl (.inl rfl)
  | update v x hx => exact .of_driver (updateLink_history hx)
  | armrx a hi => exact .of_same rfl rfl (.inr ⟨hi, .inl rfl⟩)
  | armtx a n hi => exact .of_same rfl rfl (.inr ⟨hi, .inr rfl⟩)

end LinkSideMove

/-! ## The timer -/

theorem periodAt_mem (p : Params) (k : BitVec 4) : periodAt p k ∈ p.periodTable := Vector.getElem_mem k.isLt

/-- R236 item 7: only an Interrupt-control write changes the period, to an entry of the table. -/
theorem Effect.timerPeriod_mem (h : Effect s i u r) (hp : s.timer.timerPeriod ∈ s.params.periodTable) :
    u.timer.timerPeriod ∈ u.params.periodTable := by
  rw [h.params]
  cases h with
  | disp _ _ _ _ _ hf =>
    obtain ⟨-, -, hkept⟩ := fired_frame hf
    rwa [hkept]
  | wrpStatus v cc =>
    have hkept : (writeStatus v cc s).timer.timerPeriod = s.timer.timerPeriod := by
      rw [writeStatus_timer]
      split <;> rfl
    rwa [hkept]
  | wrpIntctl v cc =>
    rw [writeIntctl_timer]
    exact periodAt_mem s.params (intctlIndex v)
  | _ => exact hp

/-- R92: a fire serves the cached event, so an event that is disarmed stays so. -/
theorem Fired.timer_stays_never {c : Cycles} (h : Fired s t c) (hv : s.sched.CacheValid)
    (harmed : s.sched.nextTime ≠ never) (hn : s.sched.timer = never) : t.sched.timer = never := by
  have hid : s.sched.nextId ≠ .timer := by
    intro hid
    rw [hv.1, hid] at harmed
    exact harmed hn
  exact (h.eventTime_of_ne hid.symm).trans hn

/-- R236 item 8: of the commands other than SCHED TIMER, those that arm the Timer event leave its interrupt enabled. -/
theorem Effect.disabledTimerDisarmed (h : Effect s i u r) (hv : s.sched.CacheValid) (hd : s.DisabledTimerDisarmed)
    (hi : ∀ time, i ≠ .sched .timer time) : u.DisabledTimerDisarmed := by
  intro hoff
  cases h with
  | sched e time =>
    have he : EventId.timer ≠ e := fun heq => hi time (heq ▸ rfl)
    exact ((s.sched.arm_eventTime e .timer time).trans (if_neg he)).trans (hd hoff)
  | disp _ _ _ harmed _ hf =>
    obtain ⟨-, hkept, -⟩ := fired_frame hf
    exact hf.timer_stays_never hv harmed (hd (hkept ▸ hoff))
  | wrpStatus v cc =>
    cases hbit : v.getLsbD 1
    · rw [writeStatus_of_disabling cc s hbit]
      rfl
    · rw [writeStatus_of_enabling cc s hbit] at hoff
      cases hoff
  | wrpIntctl v cc =>
    rw [writeIntctl_eq cc s rfl] at hoff ⊢
    replace hoff : s.timer.timerIntEnable = false := hoff
    simp only [hoff, Bool.false_eq_true, if_false]
    exact hd hoff
  | _ => exact hd hoff

/-! ## A re-anchoring write that finds the timer interrupt enabled, or enables it -/

/-- R183, R184, R186: such a write leaves `timerPending`, and arms the Timer one period past the anchor. -/
theorem exec_wrp_rearms {port : Port} (cc : Cycles) (rom : Bool) (s : State)
    (h : (port = .status ∧ v.getLsbD 1 = true) ∨ (port = .intctl ∧ s.timer.timerIntEnable = true)) :
    ∃ t, exec (.wrp port v cc rom) s = .next t ∧ t.timer.timerPending = s.timer.timerPending ∧
      t.sched.timer = anchorOf cc t.timer.timerPeriod + t.timer.timerPeriod.value := by
  obtain ⟨rfl, hv⟩ | ⟨rfl, hen⟩ := h
  · have he := exec_of_effect (.wrpStatus (s := s) v cc rom)
    rw [writeStatus_of_enabling cc s hv] at he
    exact ⟨_, he, rfl, rfl⟩
  · have he := exec_of_effect (.wrpIntctl (s := s) v cc rom)
    rw [writeIntctl_eq cc s rfl, if_pos hen] at he
    exact ⟨_, he, rfl, rfl⟩

/-- R186: barring 64-bit wrap, one period after the anchor is a multiple of the period after the cycle count, and no more
than a period after it. -/
theorem anchorOf_add_period_spec {p : Period} (h : cc.toNat + p.value.toNat < 2 ^ 64) :
    cc < anchorOf cc p + p.value ∧ p.value.toNat ∣ (anchorOf cc p + p.value).toNat ∧
      (anchorOf cc p + p.value).toNat ≤ cc.toNat + p.value.toNat := by
  obtain ⟨hdvd, hle, -⟩ := anchorOf_spec cc p
  have hwrap : (anchorOf cc p).toNat + p.value.toNat < 2 ^ 64 := (Nat.add_le_add_right hle _).trans_lt h
  refine ⟨lt_anchorOf_add_period hwrap, ?_⟩
  rw [BitVec.toNat_add_of_lt hwrap]
  exact ⟨Nat.dvd_add_self_right.2 hdvd, Nat.add_le_add_right hle _⟩

/-! ## Reset -/

/-- R230: the cached pair of the reset state is what `Recompute()` makes of its slots. -/
theorem recompute_reset : State.reset.sched.recompute = State.reset.sched := by decide

theorem cacheValid_reset : State.reset.sched.CacheValid :=
  recompute_reset ▸ Scheduler.recompute_cacheValid State.reset.sched

theorem link_inv_reset : State.reset.link.Inv := by constructor <;> decide

/-! ## The statements -/

/-- Settles O53: the cache and the memory's form are kept by every step; the rest is kept where the block is, and by the
effect of every command. -/
theorem stepKeepsTheInvariants : Obligations.StepKeepsTheInvariants := by
  intro s t h hs
  obtain ⟨hlink, hperiod, hbounded⟩ : t.link.Inv ∧ t.timer.timerPeriod ∈ t.params.periodTable ∧
      ∀ d, t.params.queueDepth = some d → t.queue.length ≤ d := by
    obtain hk | ⟨w, rest, i, u, r, -, -, he, rfl⟩ := step_kept_or_effect hs
    · rw [hk.link, hk.timer, hk.params, hk.queue]
      exact ⟨h.link, h.period, h.bounded⟩
    · have hm := LinkSideMove.of_effect he
      have hp : u.params = s.params := he.params
      exact ⟨hm.inv h.link, he.timerPeriod_mem h.period, hp ▸ hm.bounded h.bounded⟩
  exact ⟨step_cacheValid h.cache hs, hlink, hperiod, hbounded, stepKeepsMemoryCanonical s t h.memory hs⟩

/-- Settles O43: the write sets no `timerPending`, and its slot write is after the cycle count, so after the lost fire. -/
theorem reanchoringWriteLosesAnOverdueFire : Obligations.ReanchoringWriteLosesAnOverdueFire := by
  intro port v cc rom s h hdue
  obtain ⟨t, he, hpending, hslot⟩ := exec_wrp_rearms cc rom s h
  refine ⟨t, he, hpending, fun hwrap => ?_⟩
  obtain ⟨hafter, hdvd, hle⟩ := anchorOf_add_period_spec hwrap
  rw [hslot]
  exact ⟨Std.lt_of_le_of_lt hdue hafter, hafter, hdvd, hle⟩

/-- Settles O54: by cases on what a step can be; the one command that could arm a disabled timer's event is excluded. -/
theorem aDisabledTimerStaysDisarmed : Obligations.ADisabledTimerStaysDisarmed := by
  intro s t hv hd hnext hs
  obtain hk | ⟨w, rest, i, u, r, hin, hdec, he, rfl⟩ := step_kept_or_effect hs
  · intro hoff
    rw [hk.sched]
    exact hd (hk.timer ▸ hoff)
  · have hi : ∀ time, i ≠ .sched .timer time := fun time heq => hnext ⟨w, rest, time, hin, heq ▸ hdec⟩
    exact he.disabledTimerDisarmed hv hd hi

/-- Settles O56: a step leaves the transport or is one of the moves of a command, each of which keeps the history. -/
theorem stepKeepsTheTransportsHistory : Obligations.StepKeepsTheTransportsHistory := by
  intro s t hs
  obtain hk | ⟨w, rest, i, u, r, -, -, he, rfl⟩ := step_kept_or_effect hs
  · rw [hk.link]
    exact .of_same rfl rfl (.inl rfl)
  · exact (LinkSideMove.of_effect he).historyKept

/-- Settles O1: reset's registers as R230 to R232 list them, and with the cached time never a DISP has no event to serve. -/
theorem resetLeavesTheBlockIdle : Obligations.ResetLeavesTheBlockIdle :=
  ⟨rfl, cacheValid_reset, rfl, rfl, rfl, rfl, rfl, rfl, rfl, rfl, rfl, ⟨rfl, rfl⟩, fun _ => raises_noEventArmed rfl⟩

/-- Settles O2: the cached pair, the quiescent transport, entry 0 of the table, an empty queue and an empty memory. -/
theorem resetSatisfiesTheInvariants : Obligations.ResetSatisfiesTheInvariants where
  cache := cacheValid_reset
  link := link_inv_reset
  period := Vector.getElem_mem (by decide : 0 < 16)
  bounded := nofun
  memory := Memory.wf_reset

end Sys2Proof.Machine
end
